-- ==== Sys2Proof/Word.lean ====
section
/-! DEFINITION. The word types of the CHIP-8 CORE (spec 00_scope.md R8, 30_encoding.md R91). -/

namespace Sys2Proof

/-- A byte: a general register, a memory cell, a timer (00_scope.md R7, R8). -/
abbrev Byte := BitVec 8

/-- A 16-bit quantity: an opcode, `pc`, `i`, a return address (00_scope.md R7). -/
abbrev Word := BitVec 16

/-- A 4-bit slice of an opcode: the sprite height N, a key index (30_encoding.md R91). -/
abbrev Nibble := BitVec 4

/-- A register field X or Y: an index 0 to 15, every value legal (30_encoding.md R91, R93). -/
abbrev RegIx := BitVec 4

/-- The immediate address NNN: 12 bits (30_encoding.md R91). -/
abbrev Addr := BitVec 12

end Sys2Proof
end

