-- ==== Sys2Proof/Syntax.lean ====
section
/-! DEFINITION. The 34 instructions of the opcode table (spec 30_encoding.md R95), one constructor per row,
in the table's order. Each field has exactly the width of its place in the opcode (R91). -/

namespace Sys2Proof

/-- The instruction set: exactly the 34 patterns of 30_encoding.md R95, no extension (R2, R99).
A constructor's fields are the operand fields of its format (R92), in the order X, Y, then the immediate. -/
inductive Instr where
  /-- 00E0, clear the framebuffer (44_display.md R211). -/
  | cls
  /-- 00EE, return from subroutine (41_control_flow.md R140). -/
  | ret
  /-- 1NNN, jump (R141). -/
  | jp (nnn : Addr)
  /-- 2NNN, call subroutine (R142). -/
  | call (nnn : Addr)
  /-- 3XNN, skip if register equals immediate (R144). -/
  | seImm (x : RegIx) (nn : Byte)
  /-- 4XNN, skip if register differs from immediate (R145). -/
  | sneImm (x : RegIx) (nn : Byte)
  /-- 5XY0, skip if registers equal (R146). -/
  | seReg (x y : RegIx)
  /-- 6XNN, load immediate (42_alu.md R162). -/
  | ldImm (x : RegIx) (nn : Byte)
  /-- 7XNN, add immediate (R163). -/
  | addImm (x : RegIx) (nn : Byte)
  /-- 8XY0, copy register (R164). -/
  | ldReg (x y : RegIx)
  /-- 8XY1, bitwise OR (R165). -/
  | orReg (x y : RegIx)
  /-- 8XY2, bitwise AND (R166). -/
  | andReg (x y : RegIx)
  /-- 8XY3, bitwise XOR (R167). -/
  | xorReg (x y : RegIx)
  /-- 8XY4, add with carry out (R168). -/
  | addReg (x y : RegIx)
  /-- 8XY5, subtract Y from X (R169). -/
  | sub (x y : RegIx)
  /-- 8XY6, shift right by one; Y is decoded and ignored (R170). -/
  | shr (x y : RegIx)
  /-- 8XY7, subtract X from Y (R171). -/
  | subn (x y : RegIx)
  /-- 8XYE, shift left by one; Y is decoded and ignored (R172). -/
  | shl (x y : RegIx)
  /-- 9XY0, skip if registers differ (41_control_flow.md R147). -/
  | sneReg (x y : RegIx)
  /-- ANNN, load address register (43_index_memory.md R190). -/
  | ldI (nnn : Addr)
  /-- BNNN, jump with offset V0 (41_control_flow.md R143). -/
  | jpV0 (nnn : Addr)
  /-- CXNN, masked random byte (42_alu.md R173). -/
  | rnd (x : RegIx) (nn : Byte)
  /-- DXYN, draw sprite (44_display.md R212). -/
  | drw (x y : RegIx) (n : Nibble)
  /-- EX9E, skip if key pressed (45_keys_timers.md R230). -/
  | skp (x : RegIx)
  /-- EXA1, skip if key not pressed (R231). -/
  | sknp (x : RegIx)
  /-- FX07, read the delay timer (R233). -/
  | ldVxDt (x : RegIx)
  /-- FX0A, wait for a key (R232). -/
  | ldVxK (x : RegIx)
  /-- FX15, set the delay timer (R234). -/
  | ldDtVx (x : RegIx)
  /-- FX18, set the sound timer (R235). -/
  | ldStVx (x : RegIx)
  /-- FX1E, add register to address register (43_index_memory.md R191). -/
  | addI (x : RegIx)
  /-- FX29, address of font glyph (R192). -/
  | ldF (x : RegIx)
  /-- FX33, store decimal digits (R193). -/
  | ldB (x : RegIx)
  /-- FX55, store registers V0 to VX (R194). -/
  | stRegs (x : RegIx)
  /-- FX65, load registers V0 to VX (R195). -/
  | ldRegs (x : RegIx)
  deriving DecidableEq, Repr

end Sys2Proof
end

