-- ==== Sys2Proof/WellFormed.lean ====
section
/-! DEFINITION. What the spec asks of an instruction's operands (30_encoding.md R91, R93, R100) and of a program
image (R103, 70_reset_and_hazards.md R291). The fields of `Instr` have exactly their widths in the opcode, so
every `Instr` passes the first check; the checks themselves are on operands as the numbers they are. -/

namespace Sys2Proof

/-- An operand as a number, under the name the assembler syntax of 30_encoding.md R100 gives its kind. -/
inductive Operand where
  /-- `Vx`, `Vy`: one of V0 to VF. -/
  | reg (k : Nat)
  /-- `byte`: an 8-bit number. -/
  | byte (b : Nat)
  /-- `addr`: a 12-bit number. -/
  | addr (a : Nat)
  /-- `nibble`: a 4-bit number. -/
  | nibble (n : Nat)
  deriving DecidableEq, Repr

/-- The range of each kind of operand (30_encoding.md R91, R100): all values of the field are legal (R93). -/
def Operand.WellFormed : Operand → Bool
  | .reg k => k < 16
  | .byte b => b < 256
  | .addr a => a < 4096
  | .nibble n => n < 16

/-- The operands of an instruction, in the order of the assembler syntax of 30_encoding.md R100. -/
def Instr.operands : Instr → List Operand
  | .cls | .ret => []
  | .jp nnn | .call nnn | .ldI nnn | .jpV0 nnn => [.addr nnn.toNat]
  | .seImm x nn | .sneImm x nn | .ldImm x nn | .addImm x nn | .rnd x nn => [.reg x.toNat, .byte nn.toNat]
  | .seReg x y | .ldReg x y | .orReg x y | .andReg x y | .xorReg x y | .addReg x y | .sub x y | .shr x y
  | .subn x y | .shl x y | .sneReg x y => [.reg x.toNat, .reg y.toNat]
  | .drw x y n => [.reg x.toNat, .reg y.toNat, .nibble n.toNat]
  | .skp x | .sknp x | .ldVxDt x | .ldVxK x | .ldDtVx x | .ldStVx x | .addI x | .ldF x | .ldB x | .stRegs x
  | .ldRegs x => [.reg x.toNat]

/-- An instruction is well formed when each of its operands is in its kind's range. -/
def Instr.WellFormed (i : Instr) : Bool := i.operands.all Operand.WellFormed

/-- MAX_PROG, the longest program image: 4096 - 512 bytes (00_scope.md R7). -/
def maxProg : Nat := 3584

/-- A program image is well formed when it is at most 3584 bytes long; odd lengths and the empty image are
legal (30_encoding.md R103, 70_reset_and_hazards.md R291). -/
def imageWellFormed (image : List Byte) : Bool := image.length ≤ maxProg

end Sys2Proof
end

