-- ==== Sys2Proof/Decode.lean ====
section
/-! DEFINITION. The decoder, total on every word and every list of bytes (spec 30_encoding.md R94), and the encoder
written from the same table (R95). -/

namespace Sys2Proof

/-- OP = op[15:12] (30_encoding.md R91). -/
def opField (op : Word) : Nibble := op.extractLsb' 12 4

/-- X = op[11:8] (R91). -/
def xField (op : Word) : RegIx := op.extractLsb' 8 4

/-- Y = op[7:4] (R91). -/
def yField (op : Word) : RegIx := op.extractLsb' 4 4

/-- N = op[3:0] (R91). -/
def nField (op : Word) : Nibble := op.extractLsb' 0 4

/-- NN = op[7:0] (R91). -/
def nnField (op : Word) : Byte := op.extractLsb' 0 8

/-- NNN = op[11:0] (R91). -/
def nnnField (op : Word) : Addr := op.extractLsb' 0 12

/-- Group 0 of the decision tree of R94: the whole word is compared. -/
def decodeGroup0 (op : Word) : Option Instr :=
  if op = 0x00E0#16 then some .cls else if op = 0x00EE#16 then some .ret else none

/-- Group 8 of the decision tree of R94: op[3:0] selects 8XY0 to 8XY7 and 8XYE. -/
def decodeGroup8 (x y : RegIx) (n : Nibble) : Option Instr :=
  match n.toNat with
  | 0x0 => some (.ldReg x y)
  | 0x1 => some (.orReg x y)
  | 0x2 => some (.andReg x y)
  | 0x3 => some (.xorReg x y)
  | 0x4 => some (.addReg x y)
  | 0x5 => some (.sub x y)
  | 0x6 => some (.shr x y)
  | 0x7 => some (.subn x y)
  | 0xE => some (.shl x y)
  | _ => none

/-- Group E of the decision tree of R94: op[7:0] selects EX9E and EXA1. -/
def decodeGroupE (x : RegIx) (nn : Byte) : Option Instr :=
  if nn = 0x9E#8 then some (.skp x) else if nn = 0xA1#8 then some (.sknp x) else none

/-- Group F of the decision tree of R94: op[7:0] selects the FX pattern. -/
def decodeGroupF (x : RegIx) (nn : Byte) : Option Instr :=
  if nn = 0x07#8 then some (.ldVxDt x)
  else if nn = 0x0A#8 then some (.ldVxK x)
  else if nn = 0x15#8 then some (.ldDtVx x)
  else if nn = 0x18#8 then some (.ldStVx x)
  else if nn = 0x1E#8 then some (.addI x)
  else if nn = 0x29#8 then some (.ldF x)
  else if nn = 0x33#8 then some (.ldB x)
  else if nn = 0x55#8 then some (.stRegs x)
  else if nn = 0x65#8 then some (.ldRegs x)
  else none

/-- The decoder of 30_encoding.md R94: the decision tree on OP, then on the sub-opcode. `none` is
UnknownInstruction: no row of R95 matches the full bit pattern. -/
def decodeWord (op : Word) : Option Instr :=
  match (opField op).toNat with
  | 0x0 => decodeGroup0 op
  | 0x1 => some (.jp (nnnField op))
  | 0x2 => some (.call (nnnField op))
  | 0x3 => some (.seImm (xField op) (nnField op))
  | 0x4 => some (.sneImm (xField op) (nnField op))
  | 0x5 => if nField op = 0#4 then some (.seReg (xField op) (yField op)) else none
  | 0x6 => some (.ldImm (xField op) (nnField op))
  | 0x7 => some (.addImm (xField op) (nnField op))
  | 0x8 => decodeGroup8 (xField op) (yField op) (nField op)
  | 0x9 => if nField op = 0#4 then some (.sneReg (xField op) (yField op)) else none
  | 0xA => some (.ldI (nnnField op))
  | 0xB => some (.jpV0 (nnnField op))
  | 0xC => some (.rnd (xField op) (nnField op))
  | 0xD => some (.drw (xField op) (yField op) (nField op))
  | 0xE => decodeGroupE (xField op) (nnField op)
  | 0xF => decodeGroupF (xField op) (nnField op)
  | _ => none

/-- Why the bytes at hand are no instruction. -/
inductive DecodeError where
  /-- Fewer than the two bytes every instruction has (30_encoding.md R90). -/
  | tooShort
  /-- No row of R95 matches the opcode (R96). -/
  | unknown (op : Word)
  deriving DecidableEq, Repr

/-- The byte of a word at the lower address in memory: bits 15 to 8 (20_memory.md R64). -/
def hiByte (op : Word) : Byte := op.extractLsb' 8 8

/-- The byte of a word at the higher address in memory: bits 7 to 0 (20_memory.md R64). -/
def loByte (op : Word) : Byte := op.extractLsb' 0 8

/-- The two bytes of an opcode joined big-endian (20_memory.md R64). -/
def wordOfBytes (hi lo : Byte) : Word := hi ++ lo

/-- Decode the first instruction of a list of bytes, and give the rest of the list: total, and rejecting by name
(30_encoding.md R90, R94, R96). -/
def decode : List Byte → Except DecodeError (Instr × List Byte)
  | hi :: lo :: rest =>
    match decodeWord (wordOfBytes hi lo) with
    | some i => .ok (i, rest)
    | none => .error (.unknown (wordOfBytes hi lo))
  | _ => .error .tooShort

/-- Format Z: the whole word is fixed (30_encoding.md R92). -/
def formatZ (fixed : Word) : Word := fixed

/-- Format A: OP and NNN (R92). -/
def formatA (op : Nibble) (nnn : Addr) : Word := op ++ nnn

/-- Format XI: OP, X and NN (R92); also format XK, where NN is the fixed sub-opcode. -/
def formatXI (op : Nibble) (x : RegIx) (nn : Byte) : Word := op ++ x ++ nn

/-- Formats XY and XYN: OP, X, Y and op[3:0], which XY fixes (R92). -/
def formatXY (op : Nibble) (x y : RegIx) (n : Nibble) : Word := op ++ x ++ y ++ n

/-- The encoder: the word of each instruction, from its row of 30_encoding.md R95 and its format of R92. -/
def encode : Instr → Word
  | .cls => formatZ 0x00E0
  | .ret => formatZ 0x00EE
  | .jp nnn => formatA 0x1 nnn
  | .call nnn => formatA 0x2 nnn
  | .seImm x nn => formatXI 0x3 x nn
  | .sneImm x nn => formatXI 0x4 x nn
  | .seReg x y => formatXY 0x5 x y 0x0
  | .ldImm x nn => formatXI 0x6 x nn
  | .addImm x nn => formatXI 0x7 x nn
  | .ldReg x y => formatXY 0x8 x y 0x0
  | .orReg x y => formatXY 0x8 x y 0x1
  | .andReg x y => formatXY 0x8 x y 0x2
  | .xorReg x y => formatXY 0x8 x y 0x3
  | .addReg x y => formatXY 0x8 x y 0x4
  | .sub x y => formatXY 0x8 x y 0x5
  | .shr x y => formatXY 0x8 x y 0x6
  | .subn x y => formatXY 0x8 x y 0x7
  | .shl x y => formatXY 0x8 x y 0xE
  | .sneReg x y => formatXY 0x9 x y 0x0
  | .ldI nnn => formatA 0xA nnn
  | .jpV0 nnn => formatA 0xB nnn
  | .rnd x nn => formatXI 0xC x nn
  | .drw x y n => formatXY 0xD x y n
  | .skp x => formatXI 0xE x 0x9E
  | .sknp x => formatXI 0xE x 0xA1
  | .ldVxDt x => formatXI 0xF x 0x07
  | .ldVxK x => formatXI 0xF x 0x0A
  | .ldDtVx x => formatXI 0xF x 0x15
  | .ldStVx x => formatXI 0xF x 0x18
  | .addI x => formatXI 0xF x 0x1E
  | .ldF x => formatXI 0xF x 0x29
  | .ldB x => formatXI 0xF x 0x33
  | .stRegs x => formatXI 0xF x 0x55
  | .ldRegs x => formatXI 0xF x 0x65

/-- The two bytes of an instruction as they lie in memory, the most significant at the lower address (R90). -/
def encodeBytes (i : Instr) : List Byte := [hiByte (encode i), loByte (encode i)]

/-- One row of the opcode table of 30_encoding.md R95: an opcode is the instruction iff `op & mask = match`. -/
structure OpcodeRow where
  mnemonic : String
  mask : Word
  pattern : Word
  deriving DecidableEq, Repr

/-- An opcode matches a row (R95). -/
def OpcodeRow.matchesWord (r : OpcodeRow) (op : Word) : Bool := op &&& r.mask == r.pattern

/-- Rows 1 to 9 and 19 to 23 of R95: the groups one instruction fills, and group 0. -/
def opcodeRowsSingle : List OpcodeRow :=
  [⟨"CLS", 0xFFFF, 0x00E0⟩, ⟨"RET", 0xFFFF, 0x00EE⟩, ⟨"JP", 0xF000, 0x1000⟩, ⟨"CALL", 0xF000, 0x2000⟩,
   ⟨"SE_IMM", 0xF000, 0x3000⟩, ⟨"SNE_IMM", 0xF000, 0x4000⟩, ⟨"SE_REG", 0xF00F, 0x5000⟩,
   ⟨"LD_IMM", 0xF000, 0x6000⟩, ⟨"ADD_IMM", 0xF000, 0x7000⟩, ⟨"SNE_REG", 0xF00F, 0x9000⟩,
   ⟨"LD_I", 0xF000, 0xA000⟩, ⟨"JP_V0", 0xF000, 0xB000⟩, ⟨"RND", 0xF000, 0xC000⟩, ⟨"DRW", 0xF000, 0xD000⟩]

/-- Rows 10 to 18 of R95: group 8. -/
def opcodeRows8 : List OpcodeRow :=
  [⟨"LD_REG", 0xF00F, 0x8000⟩, ⟨"OR", 0xF00F, 0x8001⟩, ⟨"AND", 0xF00F, 0x8002⟩, ⟨"XOR", 0xF00F, 0x8003⟩,
   ⟨"ADD_REG", 0xF00F, 0x8004⟩, ⟨"SUB", 0xF00F, 0x8005⟩, ⟨"SHR", 0xF00F, 0x8006⟩, ⟨"SUBN", 0xF00F, 0x8007⟩,
   ⟨"SHL", 0xF00F, 0x800E⟩]

/-- Rows 24 to 34 of R95: groups E and F. -/
def opcodeRowsEF : List OpcodeRow :=
  [⟨"SKP", 0xF0FF, 0xE09E⟩, ⟨"SKNP", 0xF0FF, 0xE0A1⟩, ⟨"LD_VX_DT", 0xF0FF, 0xF007⟩,
   ⟨"LD_VX_K", 0xF0FF, 0xF00A⟩, ⟨"LD_DT_VX", 0xF0FF, 0xF015⟩, ⟨"LD_ST_VX", 0xF0FF, 0xF018⟩,
   ⟨"ADD_I", 0xF0FF, 0xF01E⟩, ⟨"LD_F", 0xF0FF, 0xF029⟩, ⟨"LD_B", 0xF0FF, 0xF033⟩,
   ⟨"ST_REGS", 0xF0FF, 0xF055⟩, ⟨"LD_REGS", 0xF0FF, 0xF065⟩]

/-- The 34 rows of 30_encoding.md R95, as masks and matches. The decoder does not use them: they are the table the
decision tree is checked against (R102). -/
def opcodeRows : List OpcodeRow := opcodeRowsSingle ++ opcodeRows8 ++ opcodeRowsEF

/-- The mnemonic of the row an instruction stands for (30_encoding.md R95). -/
def mnemonicOf : Instr → String
  | .cls => "CLS"
  | .ret => "RET"
  | .jp _ => "JP"
  | .call _ => "CALL"
  | .seImm _ _ => "SE_IMM"
  | .sneImm _ _ => "SNE_IMM"
  | .seReg _ _ => "SE_REG"
  | .ldImm _ _ => "LD_IMM"
  | .addImm _ _ => "ADD_IMM"
  | .ldReg _ _ => "LD_REG"
  | .orReg _ _ => "OR"
  | .andReg _ _ => "AND"
  | .xorReg _ _ => "XOR"
  | .addReg _ _ => "ADD_REG"
  | .sub _ _ => "SUB"
  | .shr _ _ => "SHR"
  | .subn _ _ => "SUBN"
  | .shl _ _ => "SHL"
  | .sneReg _ _ => "SNE_REG"
  | .ldI _ => "LD_I"
  | .jpV0 _ => "JP_V0"
  | .rnd _ _ => "RND"
  | .drw _ _ _ => "DRW"
  | .skp _ => "SKP"
  | .sknp _ => "SKNP"
  | .ldVxDt _ => "LD_VX_DT"
  | .ldVxK _ => "LD_VX_K"
  | .ldDtVx _ => "LD_DT_VX"
  | .ldStVx _ => "LD_ST_VX"
  | .addI _ => "ADD_I"
  | .ldF _ => "LD_F"
  | .ldB _ => "LD_B"
  | .stRegs _ => "ST_REGS"
  | .ldRegs _ => "LD_REGS"

/-- What this decoder reads from an instruction whose bits are `w`, bit 0 the least significant bit of its one
word; bits at and above `nbits` are 0. The word is laid out as memory holds it, most significant byte first
(20_memory.md R64), and given to `decode`. -/
def decodeTableWord (nbits w : Nat) : Option Instr :=
  let op : Word := BitVec.ofNat 16 (w % 2 ^ nbits)
  match decode [hiByte op, loByte op] with
  | .ok (i, _) => some i
  | .error _ => none

end Sys2Proof
end

