-- ==== Sys2Proof/Config.lean ====
section
/-! DEFINITION. What the spec leaves to the model: the policies of 00_scope.md R7 and 92_eei_decisions.md, as
named values, and the free values. Which policy this machine takes is `Machine.policy` in Machine/Ops.lean;
`Machine.stepUnder` in Machine/Policies.lean is the step under any other. -/

namespace Sys2Proof

/-- I_ADD_WIDTH, the width FX1E truncates `i` to (43_index_memory.md R191, D3). -/
inductive IAddWidth where
  /-- Truncation to 12 bits, the spec's choice. -/
  | w12
  /-- Truncation to the register's 16 bits, the alternative the spec keeps. -/
  | w16
  deriving DecidableEq, Repr

/-- WIDE_OPERAND_POLICY, what EX9E, EXA1 and FX29 do when `v[X] > 0x0F` (R192, R236, D5, D6). -/
inductive WidePolicy where
  /-- OperandOutOfRange, the spec's choice. -/
  | fault
  /-- Use the low four bits of `v[X]`. -/
  | mask
  /-- FX29 only: `i <- 5 * v[X]`; the spec offers it to no key skip, which then faults. -/
  | linear
  deriving DecidableEq, Repr

/-- UNKNOWN_POLICY, what a step does with an unknown opcode (30_encoding.md R98, D14). -/
inductive UnknownPolicy where
  /-- UnknownInstruction(opcode), the spec's choice. -/
  | fatal
  /-- `pc <- pc + 2` and nothing else; the opcode is reported to the host and no fault is latched. -/
  | skip
  deriving DecidableEq, Repr

/-- The parameters of 00_scope.md R7 that choose a behaviour of `step()`. -/
structure Config where
  /-- I_ADD_WIDTH. -/
  iAddWidth : IAddWidth
  /-- LOADSTORE_INCREMENTS_I: whether FX55 and FX65 add X + 1 to `i` after the transfer (R194, D4). -/
  loadStoreIncrementsI : Bool
  /-- WIDE_OPERAND_POLICY. -/
  wideOperand : WidePolicy
  /-- UNKNOWN_POLICY. -/
  unknown : UnknownPolicy
  deriving DecidableEq, Repr

/-- FREE VALUE (log entry 5): the random byte of the `n`-th draw, when the host has supplied none. The spec states
no law for it (42_alu.md R173, D19), so it has no body: a statement about it holds for every byte. -/
opaque Config.freeByte : Nat → Byte

/-- FREE VALUE (log entry 6): which of the pressed keys FX0A reports at the `n`-th draw, as a position in their
list before reduction by its length (45_keys_timers.md R232, D7). It has no body. -/
opaque Config.freePick : Nat → Nat

end Sys2Proof
end

