-- ==== Sys2Proof/Machine/State.lean ====
section
/-! DEFINITION. The state of the CHIP-8 CORE as plain data (spec 10_state.md R20), the reasons a step can stop, and
the state right after reset. -/

namespace Sys2Proof.Machine

/-- The fatal conditions of 60_exceptions.md R250: what the fault latch can hold. Taking one is a NEXT state with
the latch loaded (R258, `Machine.raise`), so no step of this model ends in `Outcome.fault`: nothing is lost to a
stop, and this is safe. -/
inductive Fault where
  /-- Code 1, raised by a step whose opcode matches no row of the table (R251); safe: the spec states it. -/
  | unknownInstruction (op : Word)
  /-- Code 2, raised by 2NNN with `sp = 16` (R252); safe: the spec states it. -/
  | stackOverflow
  /-- Code 3, raised by 00EE with `sp = 0` (R253); safe: the spec states it. -/
  | stackUnderflow
  /-- Code 4, raised by the fetch, DXYN, FX33, FX55 and FX65 when a byte at 4096 or above is needed (R254); safe:
  the spec states it. -/
  | memoryOutOfBounds
  /-- Code 5, raised by EX9E, EXA1 and FX29 with `v[X] > 0x0F` (R255); safe: the spec's own condition, which stops
  a program where real hardware might go on. -/
  | operandOutOfRange (op : Word)
  /-- Code 6, raised by the reset operation for an image longer than 3584 bytes, never by a step (R256); safe: the
  spec states it. -/
  | programTooLarge
  deriving DecidableEq, Repr

/-- Why a step gives an instruction no meaning. -/
inductive Refusal where
  /-- Raised by a refused arm of `exec` alone, for an instruction not modelled yet; safe: nothing can be proved of
  what follows. No arm of this model raises it. -/
  | notModelled (mnemonic : String)
  deriving DecidableEq, Repr

/-- Memory as address and byte pairs in one canonical form: addresses strictly rising, and no entry equal to what an
unlisted address reads as (`Memory.wf` in Ops.lean). -/
abbrev Memory := List Host.Cell

/-- The framebuffer: 32 rows of 64 one-bit pixels; pixel (x, y), the spec's `fb[x + 64*y]`, is bit `x` of row `y`
(10_state.md R30, 44_display.md R210). -/
abbrev Screen := Vector (BitVec 64) 32

/-- The whole state: the elements of 10_state.md R20, then the two inputs (R33, R34) a step reads, then the counter
of free values drawn, which is the model's own. -/
@[ext]
structure State where
  /-- The general registers `v[0]` to `v[15]` (R21). -/
  v : Vector Byte 16
  /-- The address register (R23). -/
  i : Word
  /-- The program counter (R24). -/
  pc : Word
  /-- The number of return addresses on the stack, 0 to 16 (R26). -/
  sp : Fin 17
  /-- The return-address slots, the oldest in slot 0 (R27). -/
  stack : Vector Word 16
  /-- The 4096 bytes of memory (R29). -/
  mem : Memory
  /-- The framebuffer (R30). -/
  fb : Screen
  /-- The draw flag (R31). -/
  drawFlag : Bool
  /-- `delay_timer` (R32). -/
  dt : Byte
  /-- `sound_timer` (R32). -/
  st : Byte
  /-- The fault latch: empty, or the kind with its information (R35). -/
  fault : Option Fault
  /-- The input latch: bit `k` is `key[k]`, 1 while key `k` is pressed; written by the host alone (R33). -/
  key : BitVec 16
  /-- Random bytes the host has supplied and no CXNN has taken yet, the next first (R34). -/
  script : List Byte
  /-- How many free values have been drawn: the model's own counter, never read by the spec's machine. -/
  draws : Nat
  deriving DecidableEq, Repr

/-- PROG_BASE, the address the program is loaded at and the reset value of `pc` (00_scope.md R7). -/
def progBase : Word := 0x0200

/-- The block right after reset with nothing loaded (10_state.md R38 to R43, 70_reset_and_hazards.md R290): memory
lists nothing, so it reads as its reset contents. The zeros of `stack`, `fb`, `drawFlag`, `dt`, `st` and the empty
latch are the spec's decision D9 (log entry 3); `key`, `script` and `draws` are the model's (log entries 4, 5). -/
def State.reset : State where
  v := Vector.replicate 16 0
  i := 0
  pc := progBase
  sp := 0
  stack := Vector.replicate 16 0
  mem := []
  fb := Vector.replicate 32 0
  drawFlag := false
  dt := 0
  st := 0
  fault := none
  key := 0
  script := []
  draws := 0

end Sys2Proof.Machine
end

