-- ==== Sys2Proof/Machine/Ops.lean ====
section
/-! DEFINITION. The named operations over memory and registers, which policies this machine takes, taking a fatal
condition, and the ends a step shares (spec 10_state.md, 20_memory.md, 40_step_cycle.md, 60_exceptions.md). -/

namespace Sys2Proof.Machine

/-- What a step answers. -/
abbrev Result := Host.Outcome State Fault Refusal

/-- The policies this machine takes: the spec's choices (00_scope.md R7; log entries 7 to 10). -/
def policy : Config where
  iAddWidth := .w12
  loadStoreIncrementsI := false
  wideOperand := .fault
  unknown := .fatal

/-! ## Memory -/

/-- The number of bytes of memory: addresses 0 to 4095 (20_memory.md R60). -/
def memSize : Nat := 4096

/-- Glyphs 0 to 7 of the font table (20_memory.md R69). PRESUMED, log entry 2. -/
def fontLow : List Byte :=
  [0xF0, 0x90, 0x90, 0x90, 0xF0, 0x20, 0x60, 0x20, 0x20, 0x70,
   0xF0, 0x10, 0xF0, 0x80, 0xF0, 0xF0, 0x10, 0xF0, 0x10, 0xF0,
   0x90, 0x90, 0xF0, 0x10, 0x10, 0xF0, 0x80, 0xF0, 0x10, 0xF0,
   0xF0, 0x80, 0xF0, 0x90, 0xF0, 0xF0, 0x10, 0x20, 0x40, 0x40]

/-- Glyphs 8 to F of the font table (R69). PRESUMED, log entry 2. -/
def fontHigh : List Byte :=
  [0xF0, 0x90, 0xF0, 0x90, 0xF0, 0xF0, 0x90, 0xF0, 0x10, 0xF0,
   0xF0, 0x90, 0xF0, 0x90, 0x90, 0xE0, 0x90, 0xE0, 0x90, 0xE0,
   0xF0, 0x80, 0x80, 0x80, 0xF0, 0xE0, 0x90, 0x90, 0x90, 0xE0,
   0xF0, 0x80, 0xF0, 0x80, 0xF0, 0xF0, 0x80, 0xF0, 0x80, 0x80]

/-- FONT, the 80 bytes at 0x000, glyph `d` at `5 * d` (R68, R69). -/
def font : List Byte := fontLow ++ fontHigh

/-- MEM_FILL, every byte of reset memory that neither the font nor the program covers (10_state.md R40).
DESIGN CHOICE, log entry 1. -/
def memFill : Byte := 0x00

/-- What an unlisted address reads as: the reset contents with no program loaded (R40, R68). -/
def unlisted (a : Nat) : Byte := font.getD a memFill

/-- The byte at an address (20_memory.md R61). -/
def Memory.read : Memory → Nat → Byte
  | [], a => unlisted a
  | c :: m, a => if c.1 = a then c.2 else Memory.read m a

/-- Drop what is listed at an address. -/
def Memory.erase (m : Memory) (a : Nat) : Memory := m.filter fun c => c.1 != a

/-- Put a pair where the order of addresses wants it. -/
def Memory.insert : Memory → Nat → Byte → Memory
  | [], a, b => [(a, b)]
  | c :: m, a, b => if a < c.1 then (a, b) :: c :: m else c :: Memory.insert m a b

/-- Write one byte, keeping the canonical form: writing what an unlisted address reads as removes the entry
(20_memory.md R62). -/
def Memory.write (m : Memory) (a : Nat) (b : Byte) : Memory :=
  if b = unlisted a then Memory.erase m a else Memory.insert (Memory.erase m a) a b

/-- The canonical form: addresses strictly rising and below 4096, no entry equal to what an unlisted address
reads as. -/
abbrev Memory.wf (m : Memory) : Prop :=
  m.Pairwise (fun c d => c.1 < d.1) ∧ ∀ c ∈ m, c.1 < memSize ∧ c.2 ≠ unlisted c.1

/-- The bytes at `a`, `a + 1`, ..., `a + n - 1`: the ascending reads of 20_memory.md R65. -/
def Memory.readBytes (m : Memory) (a n : Nat) : List Byte := (List.range n).map fun k => Memory.read m (a + k)

/-- Write a list of bytes to ascending addresses from `a` (R65). -/
def Memory.writeBytes : Memory → Nat → List Byte → Memory
  | m, _, [] => m
  | m, a, b :: bs => Memory.writeBytes (Memory.write m a b) (a + 1) bs

/-- Memory whose byte at every address below 4096 is `f a`, in canonical form. It is irreducible so that no proof
unfolds 4096 cells by accident; `Memory.read_ofBytes` says what it reads. -/
@[irreducible] def Memory.ofBytes (f : Nat → Byte) : Memory :=
  (List.range memSize).filterMap fun a => if f a = unlisted a then none else some (a, f a)

/-- All `n` bytes from `a` exist: the bounds check of 20_memory.md R61, R63 and R77, on natural numbers. No byte is
asked for when `n = 0`, so nothing can be out of bounds. -/
def inBounds (a n : Nat) : Bool := n == 0 || a + n ≤ memSize

/-! ## Registers -/

/-- Read `v[x]` (10_state.md R21). -/
def State.reg (s : State) (x : RegIx) : Byte := s.v[x.toNat]'(x.isLt)

/-- Write `v[x]`; no register is hardwired (R21). -/
def State.setReg (s : State) (x : RegIx) (b : Byte) : State := { s with v := s.v.set x.toNat b x.isLt }

/-- VF, the register that doubles as the flag (R22). -/
def vf : RegIx := 0xF

/-- Result first, flag last (42_alu.md R161): with `x` = VF the flag overwrites the result. -/
def State.setResultFlag (s : State) (x : RegIx) (r f : Byte) : State := (s.setReg x r).setReg vf f

/-- Load `v[0]` to `v[x]` from memory at `a`, `a + 1`, ...; the registers above `x` keep their values
(43_index_memory.md R195). -/
def State.loadRegs (s : State) (x : RegIx) (a : Nat) : State :=
  { s with v := Vector.ofFn fun k : Fin 16 => if k.val ≤ x.toNat then s.mem.read (a + k.val) else s.v[k] }

/-- The registers `v[0]` to `v[x]` in order, `v[0]` first (R194). -/
def State.regsUpTo (s : State) (x : RegIx) : List Byte := s.v.toList.take (x.toNat + 1)

/-! ## The end of a step -/

/-- `pc <- pc + 2`, how every instruction ends whose rule gives no other `pc` (40_step_cycle.md R124). -/
def State.advance (s : State) : State := { s with pc := s.pc + 2 }

/-- Skip the next instruction: `pc <- pc + 4` if the condition holds, else `pc <- pc + 2`; the skipped word is not
fetched (41_control_flow.md R148). -/
def State.skipIf (s : State) (c : Bool) : State := { s with pc := if c then s.pc + 4 else s.pc + 2 }

/-- Taking a fatal condition, for every instruction and every phase (60_exceptions.md R258, 40_step_cycle.md R125):
nothing changes but the fault latch, `pc` stays at the faulting instruction, control goes nowhere. There is no
return from it: only the reset operation empties the latch (R260). -/
def raise (f : Fault) (s : State) : Result := .next { s with fault := some f }

/-- An unknown opcode under each policy (30_encoding.md R98, 60_exceptions.md R251). -/
def unknownOpcode (p : UnknownPolicy) (op : Word) (s : State) : Result :=
  match p with
  | .fatal => raise (.unknownInstruction op) s
  | .skip => .next s.advance

/-- The opcode a step reports to the host as skipped, under the skip policy (R98): none under the fatal one. -/
def skippedReport (p : UnknownPolicy) (op : Word) : Option Word :=
  match p with
  | .fatal => none
  | .skip => some op

/-! ## The fault latch as the host reads it -/

/-- The code of a fatal condition (60_exceptions.md R250, D13). -/
def Fault.code : Fault → Nat
  | .unknownInstruction _ => 1
  | .stackOverflow => 2
  | .stackUnderflow => 3
  | .memoryOutOfBounds => 4
  | .operandOutOfRange _ => 5
  | .programTooLarge => 6

/-- The information of a fatal condition: the opcode of kinds 1 and 5, nothing for the others (R250). -/
def Fault.info : Fault → Option Word
  | .unknownInstruction op => some op
  | .operandOutOfRange op => some op
  | .stackOverflow | .stackUnderflow | .memoryOutOfBounds | .programTooLarge => none

/-- The latch's code: 0 when it is empty (R250, 10_state.md R43). -/
def State.faultCode (s : State) : Nat := (s.fault.map Fault.code).getD 0

/-- The latch's information: nothing when it is empty (R250). -/
def State.faultInfo (s : State) : Option Word := s.fault.bind Fault.info

/-! ## Fetch -/

/-- Fetch: the big-endian word at `pc` and `pc + 1`, or `none` when one of the two bytes does not exist
(40_step_cycle.md R122, 20_memory.md R64). -/
def fetch (s : State) : Option Word :=
  if inBounds s.pc.toNat 2 then
    some (wordOfBytes (s.mem.read s.pc.toNat) (s.mem.read (s.pc.toNat + 1)))
  else none

/-- The phases of a step (40_step_cycle.md R120), for any UNKNOWN_POLICY and any meaning of the instructions: a loaded
latch makes it a stutter step (R121); a fetch with a byte at 4096 or above raises MemoryOutOfBounds (R122); an
opcode no row matches is unknown (R123); else the instruction runs (R124). The first raise ends it (R126). -/
def stepWith (p : UnknownPolicy) (run : Instr → State → Result) (s : State) : Result :=
  match s.fault with
  | some _ => .next s
  | none =>
    match fetch s with
    | none => raise .memoryOutOfBounds s
    | some op =>
      match decodeWord op with
      | none => unknownOpcode p op s
      | some i => run i s

/-- The opcode that a step from this state, with no fault latched, skips: the fetched one when no row matches it and
the policy is skip (30_encoding.md R98). -/
def State.skippedOpcode (p : UnknownPolicy) (s : State) : Option Word :=
  match fetch s with
  | none => none
  | some op => if (decodeWord op).isNone then skippedReport p op else none

/-- Where `State.withFetchWord` places an instruction: at `pc` when both its bytes exist there, else at the entry
point, to which `pc` is then set. -/
def fetchSite (s : State) : Word := if inBounds s.pc.toNat 2 then s.pc else progBase

/-- Place the word of an instruction where the next step fetches it, and empty the fault latch, without which no
step fetches. -/
def placeWord (s : State) (op : Word) : State :=
  { s with
    pc := fetchSite s
    fault := none
    mem := s.mem.writeBytes (fetchSite s).toNat [hiByte op, loByte op] }

/-! ## The random byte and the choice of a key -/

/-- The byte CXNN takes: the host's next one, or a free value when the host has supplied none (60_exceptions.md R267).
Log entry 5. -/
def State.randomByte (s : State) : Byte := s.script.headD (Config.freeByte s.draws)

/-- One more free value has been drawn. -/
def State.drawn (s : State) : State := { s with draws := s.draws + 1 }

/-- The state once CXNN has taken its byte: each execution takes a new one (42_alu.md R173). -/
def State.tookRandom (s : State) : State := { s with script := s.script.tail, draws := s.draws + 1 }

/-- The pressed keys, lowest first: the set P of 45_keys_timers.md R232. -/
def pressedKeys (key : BitVec 16) : List Nibble :=
  ((List.range 16).filter fun k => key.getLsbD k).map (BitVec.ofNat 4)

/-- The key FX0A reports: some pressed key, or `none` when P is empty (R232, KEY_PICK). Log entry 6. -/
def State.pickedKey (s : State) : Option Nibble :=
  (pressedKeys s.key)[Config.freePick s.draws % (pressedKeys s.key).length]?

end Sys2Proof.Machine
end

