-- ==== Sys2Proof/Machine/Operands.lean ====
section
/-! DEFINITION. The operand forms (spec 30_encoding.md R93, 43_index_memory.md R192 to R194,
45_keys_timers.md R236). -/

namespace Sys2Proof.Machine

/-- NNN zero-extended to 16 bits (30_encoding.md R93). -/
def addrOperand (nnn : Addr) : Word := nnn.setWidth 16

/-- A byte zero-extended to 16 bits (R93). -/
def byteOperand (b : Byte) : Word := b.setWidth 16

/-- The key EX9E and EXA1 test, or `none` when the operand is out of range (45_keys_timers.md R236). -/
def keyOperand (p : WidePolicy) (b : Byte) : Option Nibble :=
  match p with
  | .mask => some (b.extractLsb' 0 4)
  | .fault | .linear => if b.toNat ≤ 0xF then some (b.extractLsb' 0 4) else none

/-- `key[k]`: whether key `k` is pressed (10_state.md R33). -/
def State.pressed (s : State) (k : Nibble) : Bool := s.key.getLsbD k.toNat

/-- GLYPH_BYTES (00_scope.md R7). -/
def glyphBytes : Nat := 5

/-- The address of the glyph of a digit, `0x000 + 5 * d` (20_memory.md R68). -/
def glyphAddress (d : Nat) : Word := BitVec.ofNat 16 (glyphBytes * d)

/-- What FX29 loads into `i`, or `none` when the operand is out of range (43_index_memory.md R192). -/
def glyphOperand (p : WidePolicy) (b : Byte) : Option Word :=
  match p with
  | .fault => if b.toNat ≤ 0xF then some (glyphAddress b.toNat) else none
  | .mask => some (glyphAddress (b.toNat % 16))
  | .linear => some (glyphAddress b.toNat)

/-- `i` after FX55 and FX65: unchanged, or `i + X + 1` under the alternative (R194, D4). -/
def indexAfterTransfer (increments : Bool) (i : Word) (x : RegIx) : Word :=
  if increments then i + x.setWidth 16 + 1 else i

/-- The three decimal digits of FX33, hundreds first (R193). -/
def decimalDigits (b : Byte) : List Byte :=
  [BitVec.ofNat 8 (b.toNat / 100), BitVec.ofNat 8 (b.toNat / 10 % 10), BitVec.ofNat 8 (b.toNat % 10)]

end Sys2Proof.Machine
end

