-- ==== Sys2Proof/Machine/Flags.lean ====
section
/-! DEFINITION. Every result and flag computation of the spec (42_alu.md R160, R168 to R172, 43_index_memory.md R191):
operands as natural numbers, computed exactly, then narrowed. -/

namespace Sys2Proof.Machine

/-- A flag as the byte VF holds: 0 or 1 (10_state.md R22). -/
def flagByte (c : Bool) : Byte := if c then 1 else 0

/-- `(a + b) mod 256` (42_alu.md R160). -/
def sumResult (a b : Byte) : Byte := BitVec.ofNat 8 (a.toNat + b.toNat)

/-- The carry: `a + b > 255` before truncation (R168). -/
def sumCarry (a b : Byte) : Bool := 255 < a.toNat + b.toNat

/-- `(a - b) mod 256` (R160). -/
def diffResult (a b : Byte) : Byte := BitVec.ofInt 8 ((a.toNat : Int) - (b.toNat : Int))

/-- No borrow: `a >= b` (R169, R171). -/
def diffNoBorrow (a b : Byte) : Bool := b.toNat ≤ a.toNat

/-- `a >> 1`, bit 7 of the result 0 (R170). -/
def shrResult (a : Byte) : Byte := a >>> 1

/-- The bit a right shift pushes out: bit 0 (R170). -/
def shrOut (a : Byte) : Bool := a.getLsbD 0

/-- `(a << 1) mod 256` (R172). -/
def shlResult (a : Byte) : Byte := a <<< 1

/-- The bit a left shift pushes out: bit 7 (R172). -/
def shlOut (a : Byte) : Bool := a.getLsbD 7

/-- The width FX1E truncates to, in bits (43_index_memory.md R191). -/
def truncationBits : IAddWidth → Nat
  | .w12 => 12
  | .w16 => 16

/-- `i` after FX1E: `(i + v[X]) mod 2^I_ADD_WIDTH` (R191). -/
def indexSum (w : IAddWidth) (i : Word) (b : Byte) : Word :=
  BitVec.ofNat 16 ((i.toNat + b.toNat) % 2 ^ truncationBits w)

/-- The flag of FX1E: the sum before truncation exceeds 0xFFF (R191). -/
def indexCarry (i : Word) (b : Byte) : Bool := 0x0FFF < i.toNat + b.toNat

end Sys2Proof.Machine
end

