-- ==== Sys2Proof/Machine/Alu.lean ====
section
/-! DEFINITION. Register load, arithmetic, logic, shift and random (spec 42_alu.md). All operands are read before any
write (40_step_cycle.md R127); none of these raises a fault. -/

namespace Sys2Proof.Machine

/-- `v[X] <- r`, then `pc <- pc + 2`: the end of an instruction that writes no flag. -/
def State.finish (s : State) (x : RegIx) (r : Byte) : State := (s.setReg x r).advance

/-- `v[X] <- r`, then `v[0xF] <- f`, then `pc <- pc + 2` (R161). -/
def State.finishFlag (s : State) (x : RegIx) (r : Byte) (f : Bool) : State :=
  (s.setResultFlag x r (flagByte f)).advance

/-- 6XNN (R162). -/
def execLdImm (x : RegIx) (nn : Byte) (s : State) : Result := .next (s.finish x nn)

/-- 7XNN (R163): VF is no flag here. -/
def execAddImm (x : RegIx) (nn : Byte) (s : State) : Result := .next (s.finish x (sumResult (s.reg x) nn))

/-- 8XY0 (R164). -/
def execLdReg (x y : RegIx) (s : State) : Result := .next (s.finish x (s.reg y))

/-- 8XY1 (R165). -/
def execOrReg (x y : RegIx) (s : State) : Result := .next (s.finish x (s.reg x ||| s.reg y))

/-- 8XY2 (R166). -/
def execAndReg (x y : RegIx) (s : State) : Result := .next (s.finish x (s.reg x &&& s.reg y))

/-- 8XY3 (R167). -/
def execXorReg (x y : RegIx) (s : State) : Result := .next (s.finish x (s.reg x ^^^ s.reg y))

/-- 8XY4 (R168): VF is the carry. -/
def execAddReg (x y : RegIx) (s : State) : Result :=
  .next (s.finishFlag x (sumResult (s.reg x) (s.reg y)) (sumCarry (s.reg x) (s.reg y)))

/-- 8XY5 (R169): VF is 1 iff there is no borrow. -/
def execSub (x y : RegIx) (s : State) : Result :=
  .next (s.finishFlag x (diffResult (s.reg x) (s.reg y)) (diffNoBorrow (s.reg x) (s.reg y)))

/-- 8XY6 (R170): the shifted register is `v[X]`; Y is ignored. -/
def execShr (x _y : RegIx) (s : State) : Result :=
  .next (s.finishFlag x (shrResult (s.reg x)) (shrOut (s.reg x)))

/-- 8XY7 (R171): VF is 1 iff there is no borrow. -/
def execSubn (x y : RegIx) (s : State) : Result :=
  .next (s.finishFlag x (diffResult (s.reg y) (s.reg x)) (diffNoBorrow (s.reg y) (s.reg x)))

/-- 8XYE (R172): the shifted register is `v[X]`; Y is ignored. -/
def execShl (x _y : RegIx) (s : State) : Result :=
  .next (s.finishFlag x (shlResult (s.reg x)) (shlOut (s.reg x)))

/-- CXNN (R173): the random byte and NN; each execution takes a new byte. -/
def execRnd (x : RegIx) (nn : Byte) (s : State) : Result :=
  .next (s.tookRandom.finish x (s.randomByte &&& nn))

end Sys2Proof.Machine
end

