-- ==== Sys2Proof/Machine/Control.lean ====
section
/-! DEFINITION. Control transfer: 00EE, 1NNN, 2NNN, BNNN and the register skips (spec 41_control_flow.md). -/

namespace Sys2Proof.Machine

/-- 00EE (R140): StackUnderflow iff `sp = 0`; else `pc` takes the slot below `sp`, which is not cleared. -/
def execRet (s : State) : Result :=
  if h : s.sp.val = 0 then raise .stackUnderflow s
  else .next { s with
    pc := s.stack[s.sp.val - 1]'(by have := s.sp.isLt; omega)
    sp := ⟨s.sp.val - 1, by have := s.sp.isLt; omega⟩ }

/-- 1NNN (R141): `pc <- NNN`, with no increment and no check of the target. -/
def execJp (nnn : Addr) (s : State) : Result := .next { s with pc := addrOperand nnn }

/-- 2NNN (R142): StackOverflow iff `sp = 16`; else `pc + 2` is pushed and `pc <- NNN`. -/
def execCall (nnn : Addr) (s : State) : Result :=
  if h : s.sp.val = 16 then raise .stackOverflow s
  else .next { s with
    stack := s.stack.set s.sp.val (s.pc + 2) (by have := s.sp.isLt; omega)
    sp := ⟨s.sp.val + 1, by have := s.sp.isLt; omega⟩
    pc := addrOperand nnn }

/-- BNNN (R143): `pc <- NNN + v[0]`, the sum not reduced to 12 bits. -/
def execJpV0 (nnn : Addr) (s : State) : Result :=
  .next { s with pc := addrOperand nnn + byteOperand (s.reg 0) }

/-- 3XNN (R144). -/
def execSeImm (x : RegIx) (nn : Byte) (s : State) : Result := .next (s.skipIf (s.reg x == nn))

/-- 4XNN (R145). -/
def execSneImm (x : RegIx) (nn : Byte) (s : State) : Result := .next (s.skipIf (s.reg x != nn))

/-- 5XY0 (R146). -/
def execSeReg (x y : RegIx) (s : State) : Result := .next (s.skipIf (s.reg x == s.reg y))

/-- 9XY0 (R147). -/
def execSneReg (x y : RegIx) (s : State) : Result := .next (s.skipIf (s.reg x != s.reg y))

end Sys2Proof.Machine
end

