-- ==== Sys2Proof/Machine/Display.lean ====
section
/-! DEFINITION. The framebuffer, its XOR-draw engine and collision detector, 00E0 and DXYN (spec 44_display.md). -/

namespace Sys2Proof.Machine

/-- Pixel (x, y), reduced modulo 64 and 32 as 44_display.md R210 addresses it. -/
def pixel (fb : Screen) (x y : Nat) : Bool := (fb[y % 32]'(Nat.mod_lt _ (by decide))).getLsbD (x % 64)

/-- `fb[p] <- fb[p] ^ 1` for the pixel (x, y), reduced the same way (R213). -/
def flipPixel (fb : Screen) (x y : Nat) : Screen :=
  fb.set (y % 32) ((fb[y % 32]'(Nat.mod_lt _ (by decide))) ^^^ BitVec.twoPow 64 (x % 64)) (Nat.mod_lt _ (by decide))

/-- One bit of a sprite row: a 1 flips its pixel and records a collision if the pixel was set; a 0 does nothing
(R213). Bit position `b` counts from the most significant bit. -/
def drawBit (x0 y : Nat) (row : Byte) (acc : Screen × Bool) (b : Nat) : Screen × Bool :=
  if row.getLsbD (7 - b) then (flipPixel acc.1 (x0 + b) y, acc.2 || pixel acc.1 (x0 + b) y) else acc

/-- One row of a sprite, its eight bits from the most significant (R213). -/
def drawRow (x0 y : Nat) (row : Byte) (acc : Screen × Bool) : Screen × Bool :=
  (List.range 8).foldl (drawBit x0 y row) acc

/-- The rows of a sprite from row `y` down (R213). -/
def drawRows (x0 : Nat) : Nat → List Byte → Screen × Bool → Screen × Bool
  | _, [], acc => acc
  | y, row :: rows, acc => drawRows x0 (y + 1) rows (drawRow x0 y row acc)

/-- `Draw(fb, x0, y0, rows)`: the new framebuffer and the one collision flag of the whole sprite (R213, R214). -/
def draw (fb : Screen) (x0 y0 : Nat) (rows : List Byte) : Screen × Bool := drawRows x0 y0 rows (fb, false)

/-- The clear framebuffer (R211). -/
def blankScreen : Screen := Vector.replicate 32 0

/-- 00E0 (R211): `draw_flag` is set whether or not any pixel was; VF is not written. -/
def execCls (s : State) : Result := .next { s with fb := blankScreen, drawFlag := true }.advance

/-- DXYN (R212): the rows are read, then the sprite drawn, then VF and `draw_flag` written; with N = 0 it reads
nothing and cannot fault. -/
def execDrw (x y : RegIx) (n : Nibble) (s : State) : Result :=
  if inBounds s.i.toNat n.toNat then
    let drawn := draw s.fb (s.reg x).toNat (s.reg y).toNat (s.mem.readBytes s.i.toNat n.toNat)
    .next ({ s with fb := drawn.1, drawFlag := true }.setReg vf (flagByte drawn.2)).advance
  else raise .memoryOutOfBounds s

end Sys2Proof.Machine
end

