-- ==== Sys2Proof/Machine/Index.lean ====
section
/-! DEFINITION. The address register and the memory instructions (spec 43_index_memory.md). The one addressing mode
is `i + k` as a natural number (R196, 20_memory.md R63); every bounds check comes before the first write
(40_step_cycle.md R125). -/

namespace Sys2Proof.Machine

/-- ANNN (R190). -/
def execLdI (nnn : Addr) (s : State) : Result := .next { s with i := addrOperand nnn }.advance

/-- FX1E under each I_ADD_WIDTH (R191): the flag is the same under both. -/
def addIndex (w : IAddWidth) (x : RegIx) (s : State) : State :=
  ({ s with i := indexSum w s.i (s.reg x) }.setReg vf (flagByte (indexCarry s.i (s.reg x)))).advance

/-- FX1E (R191). -/
def execAddI (x : RegIx) (s : State) : Result := .next (addIndex policy.iAddWidth x s)

/-- FX29 under each WIDE_OPERAND_POLICY (R192): it reads no memory. -/
def loadGlyph (p : WidePolicy) (x : RegIx) (s : State) : Result :=
  match glyphOperand p (s.reg x) with
  | none => raise (.operandOutOfRange (encode (.ldF x))) s
  | some a => .next { s with i := a }.advance

/-- FX29 (R192). -/
def execLdF (x : RegIx) (s : State) : Result := loadGlyph policy.wideOperand x s

/-- Store bytes at `i`, `i + 1`, ..., or raise MemoryOutOfBounds before any write when one of them does not exist
(20_memory.md R62, R77). -/
def storeAtIndex (bs : List Byte) (s : State) : Result :=
  if inBounds s.i.toNat bs.length then
    .next { s with mem := s.mem.writeBytes s.i.toNat bs }.advance
  else raise .memoryOutOfBounds s

/-- FX33 (R193): the three digits' numeric values; `i` is not changed. -/
def execLdB (x : RegIx) (s : State) : Result := storeAtIndex (decimalDigits (s.reg x)) s

/-- FX55 under each LOADSTORE_INCREMENTS_I (R194). -/
def storeRegs (increments : Bool) (x : RegIx) (s : State) : Result :=
  if inBounds s.i.toNat (x.toNat + 1) then
    .next { s with
      mem := s.mem.writeBytes s.i.toNat (s.regsUpTo x)
      i := indexAfterTransfer increments s.i x }.advance
  else raise .memoryOutOfBounds s

/-- FX55 (R194): X + 1 bytes, `v[0]` at the lowest address. -/
def execStRegs (x : RegIx) (s : State) : Result := storeRegs policy.loadStoreIncrementsI x s

/-- FX65 under each LOADSTORE_INCREMENTS_I (R195). -/
def loadRegs (increments : Bool) (x : RegIx) (s : State) : Result :=
  if inBounds s.i.toNat (x.toNat + 1) then
    .next { s.loadRegs x s.i.toNat with i := indexAfterTransfer increments s.i x }.advance
  else raise .memoryOutOfBounds s

/-- FX65 (R195): the registers above X are not changed. -/
def execLdRegs (x : RegIx) (s : State) : Result := loadRegs policy.loadStoreIncrementsI x s

end Sys2Proof.Machine
end

