-- ==== Sys2Proof/Machine/Keys.lean ====
section
/-! DEFINITION. The key skips, the wait for a key, and the timer access instructions (spec 45_keys_timers.md). -/

namespace Sys2Proof.Machine

/-- EX9E under each WIDE_OPERAND_POLICY (R230, R236). -/
def skipPressed (p : WidePolicy) (x : RegIx) (s : State) : Result :=
  match keyOperand p (s.reg x) with
  | none => raise (.operandOutOfRange (encode (.skp x))) s
  | some k => .next (s.skipIf (s.pressed k))

/-- EX9E (R230): the latch is read as it is. -/
def execSkp (x : RegIx) (s : State) : Result := skipPressed policy.wideOperand x s

/-- EXA1 under each WIDE_OPERAND_POLICY (R231, R236). -/
def skipNotPressed (p : WidePolicy) (x : RegIx) (s : State) : Result :=
  match keyOperand p (s.reg x) with
  | none => raise (.operandOutOfRange (encode (.sknp x))) s
  | some k => .next (s.skipIf (!s.pressed k))

/-- EXA1 (R231). -/
def execSknp (x : RegIx) (s : State) : Result := skipNotPressed policy.wideOperand x s

/-- FX0A (R232): with no key pressed nothing changes and `pc` stays, a stutter step; else `v[X]` takes the index of
some pressed key. -/
def execLdVxK (x : RegIx) (s : State) : Result :=
  match s.pickedKey with
  | none => .next s
  | some k => .next (s.drawn.setReg x (k.setWidth 8)).advance

/-- FX07 (R233): `v[X] <- dt`. The assignment of the three timer patterns is log entry 11. -/
def execLdVxDt (x : RegIx) (s : State) : Result := .next (s.setReg x s.dt).advance

/-- FX15 (R234): `dt <- v[X]`. -/
def execLdDtVx (x : RegIx) (s : State) : Result := .next { s with dt := s.reg x }.advance

/-- FX18 (R235): `st <- v[X]`. -/
def execLdStVx (x : RegIx) (s : State) : Result := .next { s with st := s.reg x }.advance

end Sys2Proof.Machine
end

