-- ==== Sys2Proof/Machine/Step.lean ====
section
/-! DEFINITION. One step: latch check, fetch, decode, execute (spec 40_step_cycle.md R120 to R126). -/

namespace Sys2Proof.Machine

/-- `step()` (R120): the phases of `stepWith` under this machine's policies. -/
def step (s : State) : Host.Outcome State Fault Refusal := stepWith policy.unknown exec s

/-- The state with an instruction's word stored where `step` fetches next: at `pc` (at the entry point when the bytes
at `pc` do not both exist), most significant byte first, the latch empty. It stands for the program load
that the reset operation does (log entry 20). -/
def State.withFetchWord (s : State) (nbits w : Nat) : State := placeWord s (BitVec.ofNat 16 (w % 2 ^ nbits))

end Sys2Proof.Machine
end

