-- ==== Sys2Proof/Machine/Policies.lean ====
section
/-! DEFINITION. The step under any choice of the policies the spec keeps open (00_scope.md R7, 92_eei_decisions.md D3
to D6, D14): a model's user selects one by naming a `Config`. `Machine.policy` gives `exec` and `step` again. -/

namespace Sys2Proof.Machine

/-- The meaning of an instruction under any policies: six instructions depend on one, every other is `exec`. -/
def execUnder (c : Config) (i : Instr) (s : State) : Result :=
  match i with
  | .addI x => .next (addIndex c.iAddWidth x s)
  | .ldF x => loadGlyph c.wideOperand x s
  | .skp x => skipPressed c.wideOperand x s
  | .sknp x => skipNotPressed c.wideOperand x s
  | .stRegs x => storeRegs c.loadStoreIncrementsI x s
  | .ldRegs x => loadRegs c.loadStoreIncrementsI x s
  | .cls | .ret | .jp _ | .call _ | .seImm _ _ | .sneImm _ _ | .seReg _ _ | .ldImm _ _ | .addImm _ _ | .ldReg _ _
  | .orReg _ _ | .andReg _ _ | .xorReg _ _ | .addReg _ _ | .sub _ _ | .shr _ _ | .subn _ _ | .shl _ _
  | .sneReg _ _ | .ldI _ | .jpV0 _ | .rnd _ _ | .drw _ _ _ | .ldVxDt _ | .ldVxK _ | .ldDtVx _ | .ldStVx _
  | .ldB _ => exec i s

/-- `step()` under any policies, UNKNOWN_POLICY among them (30_encoding.md R98). -/
def stepUnder (c : Config) (s : State) : Result := stepWith c.unknown (execUnder c) s

end Sys2Proof.Machine
end

