-- ==== Sys2Proof/Machine/HostOps.lean ====
section
/-! DEFINITION. The operations of the timer agent and of the host (spec 60_exceptions.md R264 to R270,
70_reset_and_hazards.md R290, R291), and any order of operations (00_scope.md R6). -/

namespace Sys2Proof.Machine

/-- One tick of one timer: one less while it is not 0 (R264). -/
def tick (t : Byte) : Byte := if 0 < t.toNat then t - 1 else 0

/-- `tick_timers()` (R264): both timers, nothing else; it acts while a fault is latched as well (R259). -/
def State.tickTimers (s : State) : State := { s with dt := tick s.dt, st := tick s.st }

/-- The key write (R266): the latch takes any 16-bit value. -/
def State.writeKeys (s : State) (key : BitVec 16) : State := { s with key := key }

/-- `draw_ack` (R268). -/
def State.drawAck (s : State) : State := { s with drawFlag := false }

/-- The host supplies random bytes, to be taken in order (R267). -/
def State.supplyRandom (s : State) (bytes : List Byte) : State := { s with script := s.script ++ bytes }

/-- The reset contents of memory: the font at 0x000, the image at 0x200, the fill elsewhere (10_state.md R40).
FONT and MEM_FILL are arguments, because the spec leaves both open (D10, D11). -/
def resetByte (fontBytes : List Byte) (fill : Nat → Byte) (image : List Byte) (a : Nat) : Byte :=
  if a < progBase.toNat then fontBytes.getD a (fill a) else image.getD (a - progBase.toNat) (fill a)

/-- `reset(image)` for any FONT and MEM_FILL (70_reset_and_hazards.md R290, R291): every element at its reset value;
an image longer than 3584 bytes is not copied and latches ProgramTooLarge. The key latch and the random
source are the host's and keep their contents (10_state.md R44). -/
def State.resetWith (s : State) (fontBytes : List Byte) (fill : Nat → Byte) (image : List Byte) : State :=
  { State.reset with
    mem := Memory.ofBytes (resetByte fontBytes fill (if imageWellFormed image then image else []))
    fault := if imageWellFormed image then none else some .programTooLarge
    key := s.key
    script := s.script
    draws := s.draws }

/-- `reset(image)` with this machine's FONT and MEM_FILL (R290). -/
def State.resetImage (s : State) (image : List Byte) : State := s.resetWith font (fun _ => memFill) image

/-- What the host reads between two operations (60_exceptions.md R269, R270). -/
structure HostView where
  fb : Screen
  drawFlag : Bool
  dt : Byte
  st : Byte
  fault : Option Fault
  deriving DecidableEq, Repr

/-- Reading changes nothing: it is a function of the state (R269). -/
def State.hostView (s : State) : HostView := ⟨s.fb, s.drawFlag, s.dt, s.st, s.fault⟩

/-- What `step()` returns to the host (40_step_cycle.md R120, 60_exceptions.md R258, R259, 30_encoding.md R98). -/
inductive StepReport where
  /-- Success: an instruction ran, an FX0A that goes on waiting among them. -/
  | completed
  /-- A fatal condition: the one the step raised, or the latched one again. -/
  | fatal (f : Fault)
  /-- Under the skip policy, the unknown opcode that was skipped. -/
  | skipped (op : Word)
  deriving DecidableEq, Repr

/-- What the step from `s` to `t` returns to the host. A step never empties the latch, so an empty one in `t` was empty
in `s`. -/
def stepReport (p : UnknownPolicy) (s t : State) : StepReport :=
  match t.fault with
  | some f => .fatal f
  | none =>
    match s.skippedOpcode p with
    | some op => .skipped op
    | none => .completed

/-- The operations that act on the state, one constructor each (00_scope.md R6, 60_exceptions.md R270). -/
inductive HostOp where
  | step
  | tickTimers
  | writeKeys (key : BitVec 16)
  | drawAck
  | supplyRandom (bytes : List Byte)
  | reset (image : List Byte)
  deriving DecidableEq, Repr

/-- One operation, atomic (00_scope.md R6), under any policies. -/
def HostOp.applyUnder (c : Config) (o : HostOp) (s : State) : Result :=
  match o with
  | .step => stepUnder c s
  | .tickTimers => .next s.tickTimers
  | .writeKeys key => .next (s.writeKeys key)
  | .drawAck => .next s.drawAck
  | .supplyRandom bytes => .next (s.supplyRandom bytes)
  | .reset image => .next (s.resetImage image)

/-- One operation under this machine's policies. -/
def HostOp.apply (o : HostOp) (s : State) : Result :=
  match o with
  | .step => Machine.step s
  | .tickTimers | .writeKeys _ | .drawAck | .supplyRandom _ | .reset _ => HostOp.applyUnder policy o s

/-- What an operation that took the state `s` to `t` returns to the host: a step its report, the others nothing. -/
def HostOp.report (c : Config) (o : HostOp) (s t : State) : Option StepReport :=
  match o with
  | .step => some (stepReport c.unknown s t)
  | .tickTimers | .writeKeys _ | .drawAck | .supplyRandom _ | .reset _ => none

/-- Operations in the order the host chooses (60_exceptions.md R265), under the policies it selects: the reports it
receives, the first step's first, and the state they lead to. -/
def runOps (c : Config) : List HostOp → State → List StepReport × Result
  | [], s => ([], .next s)
  | o :: os, s =>
    match HostOp.applyUnder c o s with
    | .next t => ((HostOp.report c o s t).toList ++ (runOps c os t).1, (runOps c os t).2)
    | .fault f => ([], .fault f)
    | .refused r => ([], .refused r)

end Sys2Proof.Machine
end

