-- ==== Sys2Proof/Safety.lean ====
section
/-! DEFINITION. The terms claims are stated in: which parts of the state an operation leaves alone, what an instruction
does to the registers, when the next instruction is known, when a program has ended, and the invariant every step
keeps. -/

namespace Sys2Proof.Safety

open Sys2Proof Sys2Proof.Machine

/-- The parts of the state of 10_state.md R20, with the key latch (R33) and the random source (R34). -/
inductive Part where
  | registers
  | index
  | pc
  | sp
  | stack
  | memory
  | screen
  | drawFlag
  | delayTimer
  | soundTimer
  | faultLatch
  | keys
  | random
  deriving DecidableEq, Repr

/-- A part of the state is the same in two states; memory when every byte reads the same. -/
def SamePart (p : Part) (s t : State) : Prop :=
  match p with
  | .registers => ∀ k, t.reg k = s.reg k
  | .index => t.i = s.i
  | .pc => t.pc = s.pc
  | .sp => t.sp = s.sp
  | .stack => t.stack = s.stack
  | .memory => ∀ a, t.mem.read a = s.mem.read a
  | .screen => t.fb = s.fb
  | .drawFlag => t.drawFlag = s.drawFlag
  | .delayTimer => t.dt = s.dt
  | .soundTimer => t.st = s.st
  | .faultLatch => t.fault = s.fault
  | .keys => t.key = s.key
  | .random => t.script = s.script ∧ t.draws = s.draws

/-- The frame: every part that is not listed is the same in both states. -/
def ChangesOnly (parts : List Part) (s t : State) : Prop := ∀ p, p ∉ parts → SamePart p s t

/-- `v[x]` takes the value `r` and no other register changes, `pc` moves past the instruction, and nothing else
changes. -/
def WritesRegister (s t : State) (x : RegIx) (r : Nat) : Prop :=
  (∀ k, (t.reg k).toNat = if k = x then r else (s.reg k).toNat) ∧
  t.pc = s.pc + 2 ∧ ChangesOnly [.registers, .pc] s t

/-- `v[x]` takes the value `r` and then VF the flag `f`, which wins when `x` is VF (42_alu.md R161); no other
register changes, `pc` moves past the instruction, and nothing else changes. -/
def WritesResultThenFlag (s t : State) (x : RegIx) (r : Nat) (f : Bool) : Prop :=
  (∀ k, (t.reg k).toNat = if k = 0xF#4 then (if f then 1 else 0) else if k = x then r else (s.reg k).toNat) ∧
  t.pc = s.pc + 2 ∧ ChangesOnly [.registers, .pc] s t

/-- `pc` moves by 4 when the condition holds and by 2 when it does not, and nothing else changes
(41_control_flow.md R148). -/
def SkipsWhen (c : Prop) (s t : State) : Prop :=
  (c → t.pc = s.pc + 4) ∧ (¬c → t.pc = s.pc + 2) ∧ ChangesOnly [.pc] s t

/-- The next step executes the opcode `op`: no fault is latched, both bytes at `pc` exist, and `op` is their
big-endian word (40_step_cycle.md R121, R122). -/
def ReadyToExecute (s : State) (op : Word) : Prop :=
  s.fault = none ∧ s.pc.toNat + 1 < 4096 ∧
  op.toNat = (s.mem.read s.pc.toNat).toNat * 256 + (s.mem.read (s.pc.toNat + 1)).toNat

/-- The program has ended: the instruction at `pc` is a 1NNN whose NNN equals `pc`, and no fault is latched
(40_step_cycle.md R130, the spec's suggestion). -/
def Ended (s : State) : Prop := ∃ nnn : Addr, ReadyToExecute s (encode (.jp nnn)) ∧ nnn.toNat = s.pc.toNat

/-- The registers an instruction may change: its destination, VF for the flag writers, and the block of FX65
(10_state.md R22). -/
def mayWriteRegister (i : Instr) (k : RegIx) : Bool :=
  match i with
  | .ldImm x _ | .addImm x _ | .ldReg x _ | .orReg x _ | .andReg x _ | .xorReg x _ | .rnd x _ | .ldVxDt x
  | .ldVxK x => k == x
  | .addReg x _ | .sub x _ | .shr x _ | .subn x _ | .shl x _ => k == x || k == 0xF#4
  | .addI _ | .drw _ _ _ => k == 0xF#4
  | .ldRegs x => k.toNat ≤ x.toNat
  | .cls | .ret | .jp _ | .call _ | .seImm _ _ | .sneImm _ _ | .seReg _ _ | .sneReg _ _ | .ldI _ | .jpV0 _ | .skp _
  | .sknp _ | .ldDtVx _ | .ldStVx _ | .ldF _ | .ldB _ | .stRegs _ => false

/-- The invariant of the block: memory is in canonical form, `pc` is at most 0x10FE (10_state.md R25), `i` at most
0x0FFF (R23), and every stack slot at most 0x1000, the largest address a call pushes (R25). -/
def BlockInvariant (s : State) : Prop :=
  s.mem.wf ∧ s.pc.toNat ≤ 0x10FE ∧ s.i.toNat ≤ 0x0FFF ∧ ∀ k : Fin 16, s.stack[k].toNat ≤ 0x1000

/-- A sprite's bit for the pixel (x, y): some bit that is 1, of row `r` at bit position `b`, lands there
(44_display.md R213). -/
def SpriteCovers (x0 y0 : Nat) (rows : List Byte) (x y : Nat) : Prop :=
  ∃ r b, ∃ h : r < rows.length, b < 8 ∧ (rows[r]).getLsbD (7 - b) = true ∧
    (x0 + b) % 64 = x ∧ (y0 + r) % 32 = y

end Sys2Proof.Safety
end

