-- ==== Sys2Proof/Certificates/Slice0/Obligations.lean ====
section
/-! DEFINITION. What is claimed of the CHIP-8 CORE: statements from the numbered rules of spec/, for the provers. A
docstring names the rule; where a statement rests on a choice the spec marks as its own or the model made, it says so
and names the log entry. -/

open Sys2Proof Sys2Proof.Machine Sys2Proof.Safety

/-! ## Encoding -/

/-- Decoding the two bytes of an encoded well-formed instruction gives it back, and leaves what follows
(30_encoding.md R90, R92, R95). -/
def Obligations.DecodeInvertsEncode : Prop :=
  ∀ (i : Instr) (rest : List Byte), i.WellFormed = true → decode (encodeBytes i ++ rest) = .ok (i, rest)

/-- Each word has one meaning: a word that decodes to an instruction is that instruction's encoding, so no bit of a
word is dropped (R91, R95). -/
def Obligations.EncodeInvertsDecode : Prop :=
  ∀ (op : Word) (i : Instr), decodeWord op = some i → encode i = op

/-- The decision tree is the opcode table of R95: a word is unknown iff it matches no row's mask and match, and a word
that decodes matches exactly the row of its instruction, so no two rows overlap. -/
def Obligations.DecoderIsTheOpcodeTable : Prop :=
  ∀ op : Word,
    (decodeWord op = none ↔ ∀ r ∈ opcodeRows, op &&& r.mask ≠ r.pattern) ∧
    ∀ i, decodeWord op = some i → ∀ r ∈ opcodeRows, (op &&& r.mask = r.pattern ↔ r.mnemonic = mnemonicOf i)

/-- Of the 65536 words, 21582 are unknown (R96, a count the spec marks as derived). -/
def Obligations.UnknownOpcodeCensus : Prop :=
  ((List.range 65536).filter fun w => (decodeWord (BitVec.ofNat 16 w)).isNone).length = 21582

/-- The operand fields are the nibbles, the low byte and the low twelve bits of the opcode (R91). -/
def Obligations.FieldsAreNibblesOfTheOpcode : Prop :=
  ∀ op : Word,
    (opField op).toNat = op.toNat / 4096 ∧ (xField op).toNat = op.toNat / 256 % 16 ∧
    (yField op).toNat = op.toNat / 16 % 16 ∧ (nField op).toNat = op.toNat % 16 ∧
    (nnField op).toNat = op.toNat % 256 ∧ (nnnField op).toNat = op.toNat % 4096

/-- Words of the spec's examples decode to the instructions they stand for, one or more of each family, and a few of
its unknown words to none (R91, R96, 95_test_vectors.md). -/
def Obligations.ExampleWordsDecode : Prop :=
  decodeWord 0x00E0 = some .cls ∧ decodeWord 0x220C = some (.call 0x20C) ∧
  decodeWord 0x3205 = some (.seImm 2 0x05) ∧ decodeWord 0x9120 = some (.sneReg 1 2) ∧
  decodeWord 0x8014 = some (.addReg 0 1) ∧ decodeWord 0x83A6 = some (.shr 3 0xA) ∧
  decodeWord 0xC30F = some (.rnd 3 0x0F) ∧ decodeWord 0xA300 = some (.ldI 0x300) ∧
  decodeWord 0xF265 = some (.ldRegs 2) ∧ decodeWord 0xD015 = some (.drw 0 1 5) ∧
  decodeWord 0xE49E = some (.skp 4) ∧ decodeWord 0xF50A = some (.ldVxK 5) ∧
  decodeWord 0x0000 = none ∧ decodeWord 0x01E0 = none ∧ decodeWord 0x8128 = none ∧ decodeWord 0xE49F = none

/-! ## The step -/

/-- Fetch (40_step_cycle.md R122): with both bytes at `pc` below 4096 it is their big-endian word, for any `pc`, and
else the step raises MemoryOutOfBounds. -/
def Obligations.FetchIsBigEndianOrOutOfBounds : Prop :=
  ∀ s : State,
    (s.pc.toNat + 1 < 4096 → ∃ op, fetch s = some op ∧
      op.toNat = (s.mem.read s.pc.toNat).toNat * 256 + (s.mem.read (s.pc.toNat + 1)).toNat) ∧
    (s.fault = none → 4096 ≤ s.pc.toNat + 1 → step s = .next { s with fault := some .memoryOutOfBounds })

/-- An opcode outside the table raises UnknownInstruction with the opcode, and nothing else changes
(60_exceptions.md R251). -/
def Obligations.UnknownOpcodeIsLatched : Prop :=
  ∀ (s : State) (op : Word), ReadyToExecute s op → decodeWord op = none →
    step s = .next { s with fault := some (.unknownInstruction op) }

/-- A step runs the decoded instruction and nothing around it: with no fault latched, when the two bytes at `pc` decode
to a well-formed instruction, the step is that instruction's meaning at the same state (40_step_cycle.md R120, R124). -/
def Obligations.StepRunsTheDecodedInstruction : Prop :=
  ∀ (s : State) (i : Instr), s.fault = none → s.pc.toNat + 1 < 4096 →
    decode [s.mem.read s.pc.toNat, s.mem.read (s.pc.toNat + 1)] = .ok (i, []) → i.WellFormed = true →
    step s = exec i s

/-- With a fault latched a step changes nothing (40_step_cycle.md R121, the spec's decision D12; log entry 12). -/
def Obligations.LatchedStepChangesNothing : Prop :=
  ∀ (s : State) (f : Fault), s.fault = some f → step s = .next s

/-- No step is refused and none ends the run: every one answers a next state, a fatal condition included
(60_exceptions.md R258; log entry 12). -/
def Obligations.StepAlwaysAnswersANextState : Prop := ∀ s : State, ∃ t, step s = .next t

/-- Which instruction can raise what, and when: every fatal condition an instruction raises is one of these, each
under its own cause (60_exceptions.md R257, marked derived; OperandOutOfRange is the spec's own, D5 and D6, log entry 9). -/
def Obligations.FatalConditionsHaveTheirCauses : Prop :=
  ∀ (i : Instr) (s t : State) (f : Fault), s.fault = none → exec i s = .next t → t.fault = some f →
    (f = .stackOverflow ∧ (∃ nnn, i = .call nnn) ∧ s.sp.val = 16) ∨
    (f = .stackUnderflow ∧ i = .ret ∧ s.sp.val = 0) ∨
    (f = .memoryOutOfBounds ∧
      ((∃ x y n, i = .drw x y n ∧ 1 ≤ n.toNat ∧ 4096 ≤ s.i.toNat + n.toNat - 1) ∨
       (∃ x, i = .ldB x ∧ 4096 ≤ s.i.toNat + 2) ∨
       (∃ x, (i = .stRegs x ∨ i = .ldRegs x) ∧ 4096 ≤ s.i.toNat + x.toNat))) ∨
    (f = .operandOutOfRange (encode i) ∧ ∃ x, (i = .skp x ∨ i = .sknp x ∨ i = .ldF x) ∧ 0x0F < (s.reg x).toNat)

/-- Check, then commit (40_step_cycle.md R125): a step that latches a fatal condition changes nothing but the latch;
`pc` still addresses the faulting instruction. -/
def Obligations.FaultingStepChangesOnlyTheLatch : Prop :=
  ∀ (s t : State) (f : Fault), s.fault = none → step s = .next t → t.fault = some f →
    t = { s with fault := some f }

/-! ## The invariant and the writers of each element -/

/-- The invariant holds at reset, and after the reset operation on any state and any image (10_state.md R23, R25,
marked derived; it rests on I_ADD_WIDTH = 12, log entry 7). -/
def Obligations.InvariantHoldsAtReset : Prop :=
  BlockInvariant State.reset ∧ ∀ (s : State) (image : List Byte), BlockInvariant (s.resetImage image)

/-- Every step keeps the invariant: memory canonical, `pc` at most 0x10FE, `i` at most 0x0FFF, stack slots at most
0x1000 (R23, R25, marked derived; log entry 7). -/
def Obligations.StepKeepsTheInvariant : Prop :=
  ∀ s t : State, BlockInvariant s → step s = .next t → BlockInvariant t

/-- Every other operation of the block keeps the invariant as well (60_exceptions.md R264 to R270; log entry 13). -/
def Obligations.HostOperationsKeepTheInvariant : Prop :=
  ∀ (o : HostOp) (s t : State), o ≠ .step → BlockInvariant s → HostOp.apply o s = .next t → BlockInvariant t

/-- Each element changes only by the instructions 10_state.md R20 lists as its writers, no step clears the draw flag or
writes the key latch, and a latched fault is never cleared (40_step_cycle.md R129, marked derived). The clauses on `dt`
and `st` rest on the assignment of FX15 and FX18, the spec's decision D15 from general knowledge (PRESUMED, log
entry 11); the clause on `i` rests on the spec's decisions D4, that FX55 and FX65 leave it alone (log entry 8), and
D28, that FX33 and DXYN do (log entry 14). -/
def Obligations.ElementsChangeOnlyByTheirWriters : Prop :=
  ∀ (i : Instr) (s t : State), exec i s = .next t →
    (t.i ≠ s.i → (∃ nnn, i = .ldI nnn) ∨ (∃ x, i = .addI x ∨ i = .ldF x)) ∧
    (t.sp ≠ s.sp → i = .ret ∨ ∃ nnn, i = .call nnn) ∧
    (t.stack ≠ s.stack → ∃ nnn, i = .call nnn) ∧
    ((∃ a, t.mem.read a ≠ s.mem.read a) → ∃ x, i = .ldB x ∨ i = .stRegs x) ∧
    (t.fb ≠ s.fb → i = .cls ∨ ∃ x y n, i = .drw x y n) ∧
    (t.drawFlag ≠ s.drawFlag → t.drawFlag = true ∧ (i = .cls ∨ ∃ x y n, i = .drw x y n)) ∧
    (t.dt ≠ s.dt → ∃ x, i = .ldDtVx x) ∧
    (t.st ≠ s.st → ∃ x, i = .ldStVx x) ∧
    t.key = s.key ∧ (s.fault ≠ none → t.fault ≠ none)

/-- A general register changes only by an instruction that names it as a destination, by a flag writer when it is VF, or
by FX65 when it is in the block (10_state.md R22; that 7XNN and the logic rows leave VF alone is the spec's
decision D28, log entry 14). -/
def Obligations.RegistersChangeOnlyByTheirWriters : Prop :=
  ∀ (i : Instr) (s t : State) (k : RegIx), exec i s = .next t → t.reg k ≠ s.reg k → mayWriteRegister i k = true

/-- The key latch and the random source matter only to EX9E, EXA1, FX0A and CXNN: any other instruction does the same
whatever they hold (40_step_cycle.md R128, marked derived). -/
def Obligations.InputsMatterOnlyToTheirReaders : Prop :=
  ∀ (i : Instr) (s t : State) (key : BitVec 16) (script : List Byte) (draws : Nat),
    (∀ x nn, i ≠ .skp x ∧ i ≠ .sknp x ∧ i ≠ .ldVxK x ∧ i ≠ .rnd x nn) → exec i s = .next t →
    exec i { s with key := key, script := script, draws := draws } =
      .next { t with key := key, script := script, draws := draws }

/-! ## Reset, timers and host operations -/

/-- Reset zeroes the registers, `i` and `sp` and sets `pc` to 0x200, in the state after reset and after the reset
operation with any legal image (10_state.md R38). -/
def Obligations.ResetLeavesTheStatedValues : Prop :=
  (∀ k, State.reset.reg k = 0 ∧ State.reset.i = 0 ∧ State.reset.sp = 0 ∧ State.reset.pc = 0x0200) ∧
  ∀ (s : State) (fontBytes : List Byte) (fill : Nat → Byte) (image : List Byte), image.length ≤ 3584 →
    (∀ k, (s.resetWith fontBytes fill image).reg k = 0) ∧ (s.resetWith fontBytes fill image).i = 0 ∧
    (s.resetWith fontBytes fill image).sp = 0 ∧ (s.resetWith fontBytes fill image).pc = 0x0200

/-- Memory after reset, for every FONT of 80 bytes and every MEM_FILL: the font at 0x000, the image at 0x200, the fill
elsewhere (10_state.md R40 with the open parameters D10, D11; log entries 1, 2). -/
def Obligations.ResetMemoryIsFontImageAndFill : Prop :=
  ∀ (s : State) (fontBytes : List Byte) (fill : Nat → Byte) (image : List Byte), fontBytes.length = 80 →
    image.length ≤ 3584 → ∀ a < 4096,
      (s.resetWith fontBytes fill image).mem.read a =
        if a < 0x50 then fontBytes.getD a 0
        else if 0x200 ≤ a ∧ a < 0x200 + image.length then image.getD (a - 0x200) 0
        else fill a

/-- An image longer than 3584 bytes is refused at load: ProgramTooLarge is latched, no byte of it is copied, and every
step is then a stutter (70_reset_and_hazards.md R291, the spec's decision D24; log entry 18). -/
def Obligations.OversizedImageIsRefused : Prop :=
  ∀ (s : State) (image : List Byte), 3584 < image.length →
    (s.resetImage image).fault = some .programTooLarge ∧
    (∀ a < 4096, (s.resetImage image).mem.read a = unlisted a) ∧
    step (s.resetImage image) = .next (s.resetImage image)

/-- `tick_timers()` takes one from each timer that is not 0, leaves a 0 alone, and changes nothing else, whatever the
latch holds (60_exceptions.md R264). -/
def Obligations.TickDecrementsNonzeroTimers : Prop :=
  ∀ s : State,
    s.tickTimers.dt.toNat = (if 0 < s.dt.toNat then s.dt.toNat - 1 else 0) ∧
    s.tickTimers.st.toNat = (if 0 < s.st.toNat then s.st.toNat - 1 else 0) ∧
    ChangesOnly [.delayTimer, .soundTimer] s s.tickTimers

/-- `n` ticks take `n` from each timer and stop at 0, so a timer set to `n` needs at least `n` ticks to read 0
(70_reset_and_hazards.md R297, marked derived). -/
def Obligations.TicksCountDownToZero : Prop :=
  ∀ (n : Nat) (s : State),
    (State.tickTimers^[n] s).dt.toNat = s.dt.toNat - n ∧ (State.tickTimers^[n] s).st.toNat = s.st.toNat - n

/-- The delay timer never increases except by FX15, whatever operation is applied (R297, marked derived). That FX15 is
the instruction that writes the delay timer is the spec's decision D15, from general knowledge (PRESUMED, log
entry 11). -/
def Obligations.DelayTimerRisesOnlyByFX15 : Prop :=
  ∀ (o : HostOp) (s t : State), HostOp.apply o s = .next t → s.dt.toNat < t.dt.toNat →
    o = .step ∧ ∃ x, fetch s = some (encode (.ldDtVx x))

/-- A key write, a `draw_ack` and a supply of random bytes each change one element, and what the host reads is the
elements themselves (60_exceptions.md R266 to R269; `draw_ack` is the spec's decision D30, the script is log entry 5). -/
def Obligations.HostWritesTouchOneElement : Prop :=
  ∀ (s : State) (key : BitVec 16) (bytes : List Byte),
    ((s.writeKeys key).key = key ∧ ChangesOnly [.keys] s (s.writeKeys key)) ∧
    (s.drawAck.drawFlag = false ∧ ChangesOnly [.drawFlag] s s.drawAck) ∧
    ((s.supplyRandom bytes).script = s.script ++ bytes ∧ (s.supplyRandom bytes).draws = s.draws ∧
      ChangesOnly [.random] s (s.supplyRandom bytes)) ∧
    (s.hostView.fb = s.fb ∧ s.hostView.drawFlag = s.drawFlag ∧ s.hostView.dt = s.dt ∧ s.hostView.st = s.st ∧
      s.hostView.fault = s.fault)

/-- Two memories in canonical form whose every byte reads the same are the same data (the model's form of
20_memory.md R60). -/
def Obligations.CanonicalMemoriesAreEqualData : Prop :=
  ∀ m m' : Memory, m.wf → m'.wf → (∀ a, m.read a = m'.read a) → m = m'

/-- The word of an instruction placed for the next fetch is the instruction the next step runs, from any state, and only
those two bytes, `pc` (when its bytes do not exist) and the latch are touched (log entry 20). -/
def Obligations.PlacedWordRunsNext : Prop :=
  ∀ (s : State) (i : Instr),
    step (s.withFetchWord 16 (encode i).toNat) = exec i (s.withFetchWord 16 (encode i).toNat) ∧
    (s.pc.toNat + 1 < 4096 → (s.withFetchWord 16 (encode i).toNat).pc = s.pc) ∧
    (∀ a, a ≠ (s.withFetchWord 16 (encode i).toNat).pc.toNat →
      a ≠ (s.withFetchWord 16 (encode i).toNat).pc.toNat + 1 →
      (s.withFetchWord 16 (encode i).toNat).mem.read a = s.mem.read a) ∧
    ChangesOnly [.pc, .memory, .faultLatch] s (s.withFetchWord 16 (encode i).toNat)

/-- A program that has ended stays where it is: the step changes no state (40_step_cycle.md R130, marked derived). -/
def Obligations.EndedProgramStaysPut : Prop := ∀ s : State, Ended s → step s = .next s

/-! ## Control transfer -/

/-- 00EE (41_control_flow.md R140): StackUnderflow iff `sp = 0`, nothing else changing; else `pc` takes the slot below
`sp`, `sp` goes down by one, and the slot keeps its value. -/
def Obligations.ReturnPopsTheStack : Prop :=
  decodeWord 0x00EE = some .ret ∧
  ∀ s : State,
    (s.sp.val = 0 → exec .ret s = .next { s with fault := some .stackUnderflow }) ∧
    (s.sp.val ≠ 0 → ∃ t, exec .ret s = .next t ∧ s.stack[s.sp.val - 1]? = some t.pc ∧
      t.sp.val = s.sp.val - 1 ∧ ChangesOnly [.pc, .sp] s t)

/-- 1NNN (R141): `pc` is NNN exactly, with no increment and no range check. -/
def Obligations.JumpLoadsTheAddress : Prop :=
  ∀ (nnn : Addr) (s : State), decodeWord (0x1#4 ++ nnn) = some (.jp nnn) ∧
    ∃ t, exec (.jp nnn) s = .next t ∧ t.pc.toNat = nnn.toNat ∧ ChangesOnly [.pc] s t

/-- 2NNN (R142): StackOverflow iff `sp = 16`, nothing else changing; else `pc + 2` is pushed into slot `sp`, `sp` goes
up by one, no other slot changes and `pc` is NNN. -/
def Obligations.CallPushesTheReturnAddress : Prop :=
  ∀ (nnn : Addr) (s : State), decodeWord (0x2#4 ++ nnn) = some (.call nnn) ∧
    (s.sp.val = 16 → exec (.call nnn) s = .next { s with fault := some .stackOverflow }) ∧
    (s.sp.val ≠ 16 → ∃ t, exec (.call nnn) s = .next t ∧ t.stack[s.sp.val]? = some (s.pc + 2) ∧
      (∀ k < 16, k ≠ s.sp.val → t.stack[k]? = s.stack[k]?) ∧ t.sp.val = s.sp.val + 1 ∧
      t.pc.toNat = nnn.toNat ∧ ChangesOnly [.stack, .sp, .pc] s t)

/-- BNNN (R143): `pc` is the natural sum NNN + `v[0]`, not reduced to twelve bits. -/
def Obligations.IndexedJumpAddsV0 : Prop :=
  ∀ (nnn : Addr) (s : State), decodeWord (0xB#4 ++ nnn) = some (.jpV0 nnn) ∧
    ∃ t, exec (.jpV0 nnn) s = .next t ∧ t.pc.toNat = nnn.toNat + (s.reg 0).toNat ∧ ChangesOnly [.pc] s t

/-- A call and then a return, at any later state with the same stack, come back to the instruction after the call with
`sp` as it was (R140, R142, the source's property S4). -/
def Obligations.CallThenReturnComesBack : Prop :=
  ∀ (nnn : Addr) (s : State), s.sp.val ≠ 16 → ∃ t, exec (.call nnn) s = .next t ∧
    ∀ u : State, u.sp = t.sp → u.stack = t.stack →
      ∃ w, exec .ret u = .next w ∧ w.pc = s.pc + 2 ∧ w.sp = s.sp

/-- The register skips (R144 to R147): 4 is added to `pc` when the condition holds and 2 when it does not, and nothing
else changes. -/
def Obligations.RegisterSkipsTestEquality : Prop :=
  ∀ (x y : RegIx) (nn : Byte) (s : State),
    (decodeWord (0x3#4 ++ x ++ nn) = some (.seImm x nn) ∧
      ∃ t, exec (.seImm x nn) s = .next t ∧ SkipsWhen ((s.reg x).toNat = nn.toNat) s t) ∧
    (decodeWord (0x4#4 ++ x ++ nn) = some (.sneImm x nn) ∧
      ∃ t, exec (.sneImm x nn) s = .next t ∧ SkipsWhen ((s.reg x).toNat ≠ nn.toNat) s t) ∧
    (decodeWord (0x5#4 ++ x ++ y ++ 0x0#4) = some (.seReg x y) ∧
      ∃ t, exec (.seReg x y) s = .next t ∧ SkipsWhen ((s.reg x).toNat = (s.reg y).toNat) s t) ∧
    (decodeWord (0x9#4 ++ x ++ y ++ 0x0#4) = some (.sneReg x y) ∧
      ∃ t, exec (.sneReg x y) s = .next t ∧ SkipsWhen ((s.reg x).toNat ≠ (s.reg y).toNat) s t)

/-! ## Arithmetic and logic -/

/-- 6XNN and 8XY0 (42_alu.md R162, R164): `v[X]` takes NN or `v[Y]`; VF is a plain destination. -/
def Obligations.LoadAndCopyWriteTheRegister : Prop :=
  ∀ (x y : RegIx) (nn : Byte) (s : State),
    (decodeWord (0x6#4 ++ x ++ nn) = some (.ldImm x nn) ∧
      ∃ t, exec (.ldImm x nn) s = .next t ∧ WritesRegister s t x nn.toNat) ∧
    (decodeWord (0x8#4 ++ x ++ y ++ 0x0#4) = some (.ldReg x y) ∧
      ∃ t, exec (.ldReg x y) s = .next t ∧ WritesRegister s t x (s.reg y).toNat)

/-- 7XNN, 8XY1, 8XY2, 8XY3 (R163, R165 to R167): the wrapped sum and the bitwise results. That VF is no flag here is the
spec's decision D28 (log entry 14). -/
def Obligations.AddImmediateAndLogicLeaveVF : Prop :=
  ∀ (x y : RegIx) (nn : Byte) (s : State),
    (decodeWord (0x7#4 ++ x ++ nn) = some (.addImm x nn) ∧
      ∃ t, exec (.addImm x nn) s = .next t ∧ WritesRegister s t x (((s.reg x).toNat + nn.toNat) % 256)) ∧
    (decodeWord (0x8#4 ++ x ++ y ++ 0x1#4) = some (.orReg x y) ∧
      ∃ t, exec (.orReg x y) s = .next t ∧ WritesRegister s t x ((s.reg x).toNat ||| (s.reg y).toNat)) ∧
    (decodeWord (0x8#4 ++ x ++ y ++ 0x2#4) = some (.andReg x y) ∧
      ∃ t, exec (.andReg x y) s = .next t ∧ WritesRegister s t x ((s.reg x).toNat &&& (s.reg y).toNat)) ∧
    (decodeWord (0x8#4 ++ x ++ y ++ 0x3#4) = some (.xorReg x y) ∧
      ∃ t, exec (.xorReg x y) s = .next t ∧ WritesRegister s t x ((s.reg x).toNat ^^^ (s.reg y).toNat))

/-- 8XY4, 8XY5, 8XY7 (R168, R169, R171, with R161): the wrapped result, then VF: the carry, or 1 iff there is no borrow;
operands are the values before the step, also when X or Y is VF. -/
def Obligations.AddAndSubtractSetVF : Prop :=
  ∀ (x y : RegIx) (s : State),
    (decodeWord (0x8#4 ++ x ++ y ++ 0x4#4) = some (.addReg x y) ∧
      ∃ t, exec (.addReg x y) s = .next t ∧
        WritesResultThenFlag s t x (((s.reg x).toNat + (s.reg y).toNat) % 256)
          (255 < (s.reg x).toNat + (s.reg y).toNat)) ∧
    (decodeWord (0x8#4 ++ x ++ y ++ 0x5#4) = some (.sub x y) ∧
      ∃ t, exec (.sub x y) s = .next t ∧
        WritesResultThenFlag s t x
          (if (s.reg y).toNat ≤ (s.reg x).toNat then (s.reg x).toNat - (s.reg y).toNat
            else (s.reg x).toNat + 256 - (s.reg y).toNat)
          ((s.reg y).toNat ≤ (s.reg x).toNat)) ∧
    (decodeWord (0x8#4 ++ x ++ y ++ 0x7#4) = some (.subn x y) ∧
      ∃ t, exec (.subn x y) s = .next t ∧
        WritesResultThenFlag s t x
          (if (s.reg x).toNat ≤ (s.reg y).toNat then (s.reg y).toNat - (s.reg x).toNat
            else (s.reg y).toNat + 256 - (s.reg x).toNat)
          ((s.reg x).toNat ≤ (s.reg y).toNat))

/-- 8XY6 and 8XYE (R170, R172, with R161): `v[X]` halved or doubled modulo 256, VF the bit shifted out, Y ignored. -/
def Obligations.ShiftsSetVF : Prop :=
  ∀ (x y : RegIx) (s : State),
    (decodeWord (0x8#4 ++ x ++ y ++ 0x6#4) = some (.shr x y) ∧
      ∃ t, exec (.shr x y) s = .next t ∧
        WritesResultThenFlag s t x ((s.reg x).toNat / 2) ((s.reg x).toNat % 2 = 1)) ∧
    (decodeWord (0x8#4 ++ x ++ y ++ 0xE#4) = some (.shl x y) ∧
      ∃ t, exec (.shl x y) s = .next t ∧
        WritesResultThenFlag s t x ((s.reg x).toNat * 2 % 256) (128 ≤ (s.reg x).toNat))

/-- CXNN (R173): `v[X]` is a byte and NN, the byte being the host's next one when it has supplied one and else any byte;
the byte is used up, the model's counter of draws goes up by one on every execution, and so the next execution takes a
new byte (the spec's decision D19; log entry 5). -/
def Obligations.RandomMasksAFreshByte : Prop :=
  ∀ (x : RegIx) (nn : Byte) (s : State),
    decodeWord (0xC#4 ++ x ++ nn) = some (.rnd x nn) ∧
    ∃ t b, exec (.rnd x nn) s = .next t ∧ t.reg x = b &&& nn ∧ (∀ k, k ≠ x → t.reg k = s.reg k) ∧
      (∀ c cs, s.script = c :: cs → b = c ∧ t.script = cs) ∧
      (s.script = [] → b = Config.freeByte s.draws ∧ t.script = []) ∧
      t.draws = s.draws + 1 ∧ t.pc = s.pc + 2 ∧ ChangesOnly [.registers, .pc, .random] s t

/-! ## The address register and memory -/

/-- ANNN (43_index_memory.md R190): `i` is NNN. -/
def Obligations.LoadIndexRegister : Prop :=
  ∀ (nnn : Addr) (s : State), decodeWord (0xA#4 ++ nnn) = some (.ldI nnn) ∧
    ∃ t, exec (.ldI nnn) s = .next t ∧ t.i.toNat = nnn.toNat ∧ t.pc = s.pc + 2 ∧ ChangesOnly [.index, .pc] s t

/-- FX1E (R191): `i` is the sum modulo 4096 and VF is 1 iff the sum exceeds 0xFFF, the addend being the old VF when X is
VF. The width 12 and the flag 0 in the other case are the spec's decisions D3 and D22 (log entries 7, 15). -/
def Obligations.AddToIndexRegister : Prop :=
  ∀ (x : RegIx) (s : State), decodeWord (0xF#4 ++ x ++ 0x1E#8) = some (.addI x) ∧
    ∃ t, exec (.addI x) s = .next t ∧ t.i.toNat = (s.i.toNat + (s.reg x).toNat) % 4096 ∧
      (∀ k, (t.reg k).toNat =
        if k = 0xF#4 then (if 0x0FFF < s.i.toNat + (s.reg x).toNat then 1 else 0) else (s.reg k).toNat) ∧
      t.pc = s.pc + 2 ∧ ChangesOnly [.index, .registers, .pc] s t

/-- FX29 (R192): for a digit `i` is five times it; a larger operand raises OperandOutOfRange with the opcode, the spec's
decision D6 (log entry 9). -/
def Obligations.GlyphAddressIsFiveTimesTheDigit : Prop :=
  ∀ (x : RegIx) (s : State), decodeWord (0xF#4 ++ x ++ 0x29#8) = some (.ldF x) ∧
    ((s.reg x).toNat ≤ 0x0F → ∃ t, exec (.ldF x) s = .next t ∧ t.i.toNat = 5 * (s.reg x).toNat ∧
      t.pc = s.pc + 2 ∧ ChangesOnly [.index, .pc] s t) ∧
    (0x0F < (s.reg x).toNat →
      exec (.ldF x) s = .next { s with fault := some (.operandOutOfRange (0xF#4 ++ x ++ 0x29#8)) })

/-- FX33 (R193): the three decimal digits at `i`, `i + 1`, `i + 2`, every other byte of memory as before; or
MemoryOutOfBounds with nothing written, iff `i + 2` is 4096 or more. -/
def Obligations.StoreDecimalDigits : Prop :=
  ∀ (x : RegIx) (s : State), decodeWord (0xF#4 ++ x ++ 0x33#8) = some (.ldB x) ∧
    (s.i.toNat + 2 < 4096 → ∃ t, exec (.ldB x) s = .next t ∧
      (t.mem.read s.i.toNat).toNat = (s.reg x).toNat / 100 ∧
      (t.mem.read (s.i.toNat + 1)).toNat = (s.reg x).toNat / 10 % 10 ∧
      (t.mem.read (s.i.toNat + 2)).toNat = (s.reg x).toNat % 10 ∧
      (∀ a, a < s.i.toNat ∨ s.i.toNat + 2 < a → t.mem.read a = s.mem.read a) ∧
      t.pc = s.pc + 2 ∧ ChangesOnly [.memory, .pc] s t) ∧
    (4096 ≤ s.i.toNat + 2 → exec (.ldB x) s = .next { s with fault := some .memoryOutOfBounds })

/-- FX55 (R194): `v[0]` to `v[X]` at `i` to `i + X`, every other byte as before; or MemoryOutOfBounds with nothing
written, iff `i + X` is 4096 or more. That `i` is unchanged is the spec's decision D4 (log entry 8). -/
def Obligations.StoreRegisterBlock : Prop :=
  ∀ (x : RegIx) (s : State), decodeWord (0xF#4 ++ x ++ 0x55#8) = some (.stRegs x) ∧
    (s.i.toNat + x.toNat < 4096 → ∃ t, exec (.stRegs x) s = .next t ∧
      (∀ k : RegIx, k.toNat ≤ x.toNat → t.mem.read (s.i.toNat + k.toNat) = s.reg k) ∧
      (∀ a, a < s.i.toNat ∨ s.i.toNat + x.toNat < a → t.mem.read a = s.mem.read a) ∧
      t.pc = s.pc + 2 ∧ ChangesOnly [.memory, .pc] s t) ∧
    (4096 ≤ s.i.toNat + x.toNat → exec (.stRegs x) s = .next { s with fault := some .memoryOutOfBounds })

/-- FX65 (R195): `v[0]` to `v[X]` from `i` to `i + X`, the registers above X as before; or MemoryOutOfBounds with no
register loaded, iff `i + X` is 4096 or more. That `i` is unchanged is the spec's decision D4 (log entry 8). -/
def Obligations.LoadRegisterBlock : Prop :=
  ∀ (x : RegIx) (s : State), decodeWord (0xF#4 ++ x ++ 0x65#8) = some (.ldRegs x) ∧
    (s.i.toNat + x.toNat < 4096 → ∃ t, exec (.ldRegs x) s = .next t ∧
      (∀ k : RegIx, t.reg k = if k.toNat ≤ x.toNat then s.mem.read (s.i.toNat + k.toNat) else s.reg k) ∧
      t.pc = s.pc + 2 ∧ ChangesOnly [.registers, .pc] s t) ∧
    (4096 ≤ s.i.toNat + x.toNat → exec (.ldRegs x) s = .next { s with fault := some .memoryOutOfBounds })

/-- A block stored by FX55 and loaded by FX65 at any later state with the same `i` and memory gives the registers back
(R194, R195; it rests on the spec's decision D4, log entry 8). -/
def Obligations.StoredBlockLoadsBack : Prop :=
  ∀ (x : RegIx) (s : State), s.i.toNat + x.toNat < 4096 → ∃ t, exec (.stRegs x) s = .next t ∧
    ∀ u : State, u.i = s.i → u.mem = t.mem →
      ∃ w, exec (.ldRegs x) u = .next w ∧ ∀ k : RegIx, k.toNat ≤ x.toNat → w.reg k = s.reg k

/-! ## Display -/

/-- 00E0 (44_display.md R211): every pixel 0 and the draw flag set, whatever was drawn; VF and all else unchanged. The
unconditional flag is the spec's decision D17 (log entry 16). -/
def Obligations.ClearScreenSetsTheDrawFlag : Prop :=
  decodeWord 0x00E0 = some .cls ∧
  ∀ s : State, ∃ t, exec .cls s = .next t ∧ (∀ x y, pixel t.fb x y = false) ∧ t.drawFlag = true ∧
    t.pc = s.pc + 2 ∧ ChangesOnly [.screen, .drawFlag, .pc] s t

/-- The draw engine (R213): a pixel is flipped when a sprite bit that is 1 lands on it, wrapping at both edges, and keeps
its value when none does; the collision is 1 iff such a bit landed on a pixel that was set. -/
def Obligations.DrawFlipsTheSpritesPixels : Prop :=
  ∀ (fb : Screen) (x0 y0 : Nat) (rows : List Byte), rows.length ≤ 15 →
    (∀ x < 64, ∀ y < 32,
      (SpriteCovers x0 y0 rows x y → pixel (draw fb x0 y0 rows).1 x y = !pixel fb x y) ∧
      (¬SpriteCovers x0 y0 rows x y → pixel (draw fb x0 y0 rows).1 x y = pixel fb x y)) ∧
    ((draw fb x0 y0 rows).2 = true ↔
      ∃ x < 64, ∃ y < 32, SpriteCovers x0 y0 rows x y ∧ pixel fb x y = true)

/-- The one collision flag of a whole sprite (R214): 1 iff at least one pixel that was 1 before is 0 after, which is the
same as that a sprite bit of 1 landed on a pixel that was 1. -/
def Obligations.CollisionIsASetPixelCleared : Prop :=
  ∀ (fb : Screen) (x0 y0 : Nat) (rows : List Byte), rows.length ≤ 15 →
    ((draw fb x0 y0 rows).2 = true ↔
      ∃ x < 64, ∃ y < 32, pixel fb x y = true ∧ pixel (draw fb x0 y0 rows).1 x y = false) ∧
    ((∃ x < 64, ∃ y < 32, pixel fb x y = true ∧ pixel (draw fb x0 y0 rows).1 x y = false) ↔
      ∃ x < 64, ∃ y < 32, SpriteCovers x0 y0 rows x y ∧ pixel fb x y = true)

/-- Drawing the same sprite twice at the same origin restores the framebuffer, and the second draw collides iff some pixel
under a sprite bit that is 1 was 0 before the first one (derived from R213). So a second draw that collides shows a bit
that is 1, and a sprite with such a bit collides the second time if it did not the first time. 95_test_vectors.md
section 2.4 says 'iff the sprite has at least one 1 bit', which R213 refutes when the first draw clears every pixel it
touches; the model follows R213 (log entry 22). -/
def Obligations.DrawingTwiceRestoresTheScreen : Prop :=
  ∀ (fb : Screen) (x0 y0 : Nat) (rows : List Byte), rows.length ≤ 15 →
    (draw (draw fb x0 y0 rows).1 x0 y0 rows).1 = fb ∧
    ((draw (draw fb x0 y0 rows).1 x0 y0 rows).2 = true ↔
      ∃ x < 64, ∃ y < 32, SpriteCovers x0 y0 rows x y ∧ pixel fb x y = false) ∧
    ((draw (draw fb x0 y0 rows).1 x0 y0 rows).2 = true → ∃ row ∈ rows, row ≠ 0) ∧
    ((draw fb x0 y0 rows).2 = false → (∃ row ∈ rows, row ≠ 0) →
      (draw (draw fb x0 y0 rows).1 x0 y0 rows).2 = true)

/-- DXYN (R212): the sprite of the N bytes from `i` drawn at the old `v[X]`, `v[Y]`, VF the collision or 0, the draw flag
set; or MemoryOutOfBounds with nothing drawn, iff N is at least 1 and its last byte is at 4096 or above. The flag
rules are the spec's decisions D17 and D22 (log entries 15, 16). -/
def Obligations.DrawInstructionDrawsFromMemory : Prop :=
  ∀ (x y : RegIx) (n : Nibble) (s : State), decodeWord (0xD#4 ++ x ++ y ++ n) = some (.drw x y n) ∧
    (n.toNat = 0 ∨ s.i.toNat + n.toNat - 1 < 4096 → ∃ t rows, exec (.drw x y n) s = .next t ∧
      rows.length = n.toNat ∧ (∀ r < n.toNat, rows[r]? = some (s.mem.read (s.i.toNat + r))) ∧
      t.fb = (draw s.fb (s.reg x).toNat (s.reg y).toNat rows).1 ∧
      (∀ k, (t.reg k).toNat =
        if k = 0xF#4 then (if (draw s.fb (s.reg x).toNat (s.reg y).toNat rows).2 then 1 else 0)
        else (s.reg k).toNat) ∧
      t.drawFlag = true ∧ t.pc = s.pc + 2 ∧ ChangesOnly [.screen, .drawFlag, .registers, .pc] s t) ∧
    (1 ≤ n.toNat → 4096 ≤ s.i.toNat + n.toNat - 1 →
      exec (.drw x y n) s = .next { s with fault := some .memoryOutOfBounds })

/-! ## Keys and timers -/

/-- EX9E and EXA1 (45_keys_timers.md R230, R231): skip iff the key is pressed, or is not; an operand above 0xF raises
OperandOutOfRange with the opcode, the spec's decision D5 (log entry 9). -/
def Obligations.KeySkipsReadTheLatch : Prop :=
  ∀ (x : RegIx) (s : State),
    (decodeWord (0xE#4 ++ x ++ 0x9E#8) = some (.skp x) ∧ decodeWord (0xE#4 ++ x ++ 0xA1#8) = some (.sknp x)) ∧
    ((s.reg x).toNat ≤ 0x0F →
      (∃ t, exec (.skp x) s = .next t ∧ SkipsWhen (s.key.getLsbD (s.reg x).toNat = true) s t) ∧
      (∃ t, exec (.sknp x) s = .next t ∧ SkipsWhen (s.key.getLsbD (s.reg x).toNat = false) s t)) ∧
    (0x0F < (s.reg x).toNat →
      exec (.skp x) s = .next { s with fault := some (.operandOutOfRange (0xE#4 ++ x ++ 0x9E#8)) } ∧
      exec (.sknp x) s = .next { s with fault := some (.operandOutOfRange (0xE#4 ++ x ++ 0xA1#8)) })

/-- FX0A (R232): with no key pressed nothing changes, `pc` included; with a key pressed, in every state, it completes:
`v[X]` takes the index of some pressed key, so the key's when only one is pressed, `pc` moves past the instruction, and
nothing else changes but the model's counter of draws, which goes up by one; the host's random bytes stay. Which one of
several and the stutter are the spec's decisions D7 and D8 (log entries 5, 6, 17). -/
def Obligations.WaitForKeyStuttersOrTakesAKey : Prop :=
  ∀ (x : RegIx) (s : State), decodeWord (0xF#4 ++ x ++ 0x0A#8) = some (.ldVxK x) ∧
    (s.key = 0 → exec (.ldVxK x) s = .next s) ∧
    (s.key ≠ 0 → ∃ t k, exec (.ldVxK x) s = .next t ∧ k < 16 ∧ s.key.getLsbD k = true ∧
      (∀ r, (t.reg r).toNat = if r = x then k else (s.reg r).toNat) ∧
      t.pc = s.pc + 2 ∧ t.script = s.script ∧ t.draws = s.draws + 1 ∧ ChangesOnly [.registers, .pc, .random] s t)

/-- FX07, FX15, FX18 (R233 to R235): the delay timer is read, the delay timer written, the sound timer written. Which
pattern does which is the spec's decision D15, from general knowledge (log entry 11). -/
def Obligations.TimerInstructionsMoveBytes : Prop :=
  ∀ (x : RegIx) (s : State),
    (decodeWord (0xF#4 ++ x ++ 0x07#8) = some (.ldVxDt x) ∧
      ∃ t, exec (.ldVxDt x) s = .next t ∧ WritesRegister s t x s.dt.toNat) ∧
    (decodeWord (0xF#4 ++ x ++ 0x15#8) = some (.ldDtVx x) ∧
      ∃ t, exec (.ldDtVx x) s = .next t ∧ t.dt = s.reg x ∧ t.pc = s.pc + 2 ∧
        ChangesOnly [.delayTimer, .pc] s t) ∧
    (decodeWord (0xF#4 ++ x ++ 0x18#8) = some (.ldStVx x) ∧
      ∃ t, exec (.ldStVx x) s = .next t ∧ t.st = s.reg x ∧ t.pc = s.pc + 2 ∧
        ChangesOnly [.soundTimer, .pc] s t)

/-! ## The optional configuration values -/

/-- What the instructions do under the alternatives the spec keeps (00_scope.md R7; log entries 7 to 10). FX1E at width 16
is FX1E but for `i`, which keeps the sum modulo 65536, and the two widths differ, from a legal `i`, exactly when VF is
set (43_index_memory.md R191). Under the mask policy EX9E, EXA1 and FX29 use the low four bits of `v[X]`; under the
linear one FX29 takes `5 * v[X]`, and the key skips, to which the spec does not offer it, are as under the fault policy
(R192, R236). FX55 and FX65 that increment are FX55 and FX65 but for `i`, which goes up by X + 1 (R194, R195). An
unknown opcode under the skip policy moves `pc` by 2 and changes nothing else (30_encoding.md R98). -/
def Obligations.AlternativePoliciesAreTheSpecs : Prop :=
  (∀ (x : RegIx) (s : State),
    (∃ i', addIndex .w16 x s = { addIndex .w12 x s with i := i' } ∧
      i'.toNat = (s.i.toNat + (s.reg x).toNat) % 65536) ∧
    (s.i.toNat ≤ 0x0FFF → (addIndex .w16 x s).i.toNat = s.i.toNat + (s.reg x).toNat ∧
      ((addIndex .w12 x s).i ≠ (addIndex .w16 x s).i ↔ 0x0FFF < s.i.toNat + (s.reg x).toNat))) ∧
  (∀ (x : RegIx) (s : State),
    (∃ t, skipPressed .mask x s = .next t ∧ SkipsWhen (s.key.getLsbD ((s.reg x).toNat % 16) = true) s t) ∧
    (∃ t, skipNotPressed .mask x s = .next t ∧ SkipsWhen (s.key.getLsbD ((s.reg x).toNat % 16) = false) s t) ∧
    (∃ t, loadGlyph .mask x s = .next t ∧ t.i.toNat = 5 * ((s.reg x).toNat % 16) ∧ t.pc = s.pc + 2 ∧
      ChangesOnly [.index, .pc] s t) ∧
    (∃ t, loadGlyph .linear x s = .next t ∧ t.i.toNat = 5 * (s.reg x).toNat ∧ t.pc = s.pc + 2 ∧
      ChangesOnly [.index, .pc] s t) ∧
    skipPressed .linear x s = skipPressed .fault x s ∧ skipNotPressed .linear x s = skipNotPressed .fault x s) ∧
  (∀ (x : RegIx) (s : State),
    (s.i.toNat + x.toNat < 4096 →
      (∃ t i', exec (.stRegs x) s = .next t ∧ storeRegs true x s = .next { t with i := i' } ∧
        i'.toNat = s.i.toNat + x.toNat + 1) ∧
      (∃ t i', exec (.ldRegs x) s = .next t ∧ loadRegs true x s = .next { t with i := i' } ∧
        i'.toNat = s.i.toNat + x.toNat + 1)) ∧
    (4096 ≤ s.i.toNat + x.toNat →
      storeRegs true x s = .next { s with fault := some .memoryOutOfBounds } ∧
      loadRegs true x s = .next { s with fault := some .memoryOutOfBounds })) ∧
  (∀ (op : Word) (s : State), ∃ t, unknownOpcode .skip op s = .next t ∧ t.pc = s.pc + 2 ∧
    ChangesOnly [.pc] s t ∧ skippedReport .skip op = some op ∧ skippedReport .fatal op = none)

/-! ## What the random source, the reset and the reports leave to say -/

/-- Only CXNN takes a random byte of the host's, and only CXNN and FX0A advance the model's counter of draws (R34, R173;
that they do is log entries 5 and 6). -/
def Obligations.RandomSourceChangesOnlyByItsReaders : Prop :=
  ∀ (i : Instr) (s t : State), exec i s = .next t →
    (t.script ≠ s.script → ∃ x nn, i = .rnd x nn) ∧
    (t.draws ≠ s.draws → (∃ x nn, i = .rnd x nn) ∨ ∃ x, i = .ldVxK x)

/-- Reset leaves the stack slots, the screen, the draw flag and both timers zero, and the latch empty unless the image is
too long (10_state.md R39, R41 to R43, 70_reset_and_hazards.md R290, R291: the spec's decisions D9 and D24, log entries
3, 18); with any image it leaves the registers, `i`, `sp` and `pc` at their reset values and keeps the host's key latch
and random source (10_state.md R44, log entry 18). -/
def Obligations.ResetClearsScreenTimersAndLatch : Prop :=
  ((∀ k < 16, State.reset.stack[k]? = some 0) ∧ (∀ x y, pixel State.reset.fb x y = false) ∧
    State.reset.drawFlag = false ∧ State.reset.dt = 0 ∧ State.reset.st = 0 ∧ State.reset.fault = none) ∧
  ∀ (s : State) (fontBytes : List Byte) (fill : Nat → Byte) (image : List Byte),
    ∃ t, s.resetWith fontBytes fill image = t ∧
      (∀ k < 16, t.stack[k]? = some 0) ∧ (∀ x y, pixel t.fb x y = false) ∧ t.drawFlag = false ∧
      t.dt = 0 ∧ t.st = 0 ∧ (∀ k, t.reg k = 0) ∧ t.i = 0 ∧ t.sp = 0 ∧ t.pc = 0x0200 ∧
      (image.length ≤ 3584 → t.fault = none) ∧ (3584 < image.length → t.fault = some .programTooLarge) ∧
      SamePart .keys s t ∧ SamePart .random s t

/-- The latch's numbers (60_exceptions.md R250, the spec's decision D13; log entry 12): code 0 exactly when it is empty, 1
to 6 for the six kinds, and as information the opcode of kinds 1 and 5, nothing else. -/
def Obligations.FaultLatchHasTheSpecsNumbers : Prop :=
  ∀ s : State,
    (s.faultCode = 0 ↔ s.fault = none) ∧ (s.fault = none → s.faultInfo = none) ∧
    (∀ op, s.fault = some (.unknownInstruction op) → s.faultCode = 1 ∧ s.faultInfo = some op) ∧
    (s.fault = some .stackOverflow → s.faultCode = 2 ∧ s.faultInfo = none) ∧
    (s.fault = some .stackUnderflow → s.faultCode = 3 ∧ s.faultInfo = none) ∧
    (s.fault = some .memoryOutOfBounds → s.faultCode = 4 ∧ s.faultInfo = none) ∧
    (∀ op, s.fault = some (.operandOutOfRange op) → s.faultCode = 5 ∧ s.faultInfo = some op) ∧
    (s.fault = some .programTooLarge → s.faultCode = 6 ∧ s.faultInfo = none)

/-- A step under any policies and its report to the host. Under the skip policy an unknown opcode moves `pc` by 2, changes
nothing else and is reported (30_encoding.md R98, D14, log entry 10); under the fatal one the condition is latched and
reported. A latched fault is reported again by a step that changes nothing (40_step_cycle.md R121, D12, log entry 12).
A decoded instruction runs under the policies and is reported as success unless it leaves a fault latched; only six
instructions depend on a policy. This machine's own policies give `exec`, `step` and the host's operations again. -/
def Obligations.StepUnderAPolicyReportsToTheHost : Prop :=
  (∀ (c : Config) (s : State) (op : Word), ReadyToExecute s op → decodeWord op = none →
    (c.unknown = .skip → ∃ t, stepUnder c s = .next t ∧ t.pc = s.pc + 2 ∧ ChangesOnly [.pc] s t ∧
      stepReport c.unknown s t = .skipped op) ∧
    (c.unknown = .fatal → ∃ t, stepUnder c s = .next t ∧ t = { s with fault := some (.unknownInstruction op) } ∧
      stepReport c.unknown s t = .fatal (.unknownInstruction op))) ∧
  (∀ (c : Config) (s : State) (f : Fault), s.fault = some f →
    stepUnder c s = .next s ∧ stepReport c.unknown s s = .fatal f) ∧
  (∀ (c : Config) (s t : State) (i : Instr), ReadyToExecute s (encode i) → execUnder c i s = .next t →
    stepUnder c s = .next t ∧
    (∀ f, t.fault = some f → stepReport c.unknown s t = .fatal f) ∧
    (t.fault = none → stepReport c.unknown s t = .completed)) ∧
  (∀ (c : Config) (i : Instr) (s : State),
    (∀ x, i ≠ .addI x ∧ i ≠ .ldF x ∧ i ≠ .skp x ∧ i ≠ .sknp x ∧ i ≠ .stRegs x ∧ i ≠ .ldRegs x) →
    execUnder c i s = exec i s) ∧
  (∀ (c : Config) (x : RegIx) (s : State),
    execUnder c (.addI x) s = .next (addIndex c.iAddWidth x s) ∧
    execUnder c (.ldF x) s = loadGlyph c.wideOperand x s ∧
    execUnder c (.skp x) s = skipPressed c.wideOperand x s ∧
    execUnder c (.sknp x) s = skipNotPressed c.wideOperand x s ∧
    execUnder c (.stRegs x) s = storeRegs c.loadStoreIncrementsI x s ∧
    execUnder c (.ldRegs x) s = loadRegs c.loadStoreIncrementsI x s) ∧
  (∀ (i : Instr) (s : State), execUnder policy i s = exec i s ∧ stepUnder policy s = step s) ∧
  (∀ (o : HostOp) (s : State), HostOp.applyUnder policy o s = HostOp.apply o s)
end

