-- ==== Sys2Proof/Laws/Decode.lean ====
section
/-! SUPPORT. The fields of an encoded word, and a word as the encoding of its own fields (spec 30_encoding.md R91, R92). -/

namespace Sys2Proof

/-! ### The fields as numbers -/

theorem toNat_opField (op : Word) : (opField op).toNat = op.toNat / 4096 := by
  have := op.isLt
  simp only [opField, BitVec.extractLsb'_toNat, Nat.shiftRight_eq_div_pow]
  omega

theorem toNat_xField (op : Word) : (xField op).toNat = op.toNat / 256 % 16 := by
  simp [xField, BitVec.extractLsb'_toNat, Nat.shiftRight_eq_div_pow]

theorem toNat_yField (op : Word) : (yField op).toNat = op.toNat / 16 % 16 := by
  simp [yField, BitVec.extractLsb'_toNat, Nat.shiftRight_eq_div_pow]

theorem toNat_nField (op : Word) : (nField op).toNat = op.toNat % 16 := by
  simp [nField, BitVec.extractLsb'_toNat]

theorem toNat_nnField (op : Word) : (nnField op).toNat = op.toNat % 256 := by
  simp [nnField, BitVec.extractLsb'_toNat]

theorem toNat_nnnField (op : Word) : (nnnField op).toNat = op.toNat % 4096 := by
  simp [nnnField, BitVec.extractLsb'_toNat]

theorem toNat_hiByte (op : Word) : (hiByte op).toNat = op.toNat / 256 := by
  have := op.isLt
  simp only [hiByte, BitVec.extractLsb'_toNat, Nat.shiftRight_eq_div_pow]
  omega

theorem toNat_loByte (op : Word) : (loByte op).toNat = op.toNat % 256 := by
  simp [loByte, BitVec.extractLsb'_toNat]

/-! ### The formats as numbers -/

theorem toNat_append_eq {m n : Nat} (a : BitVec m) (b : BitVec n) : (a ++ b).toNat = a.toNat * 2 ^ n + b.toNat := by
  rw [BitVec.toNat_append, Nat.shiftLeft_eq, Nat.mul_comm, ← Nat.two_pow_add_eq_or_of_lt b.isLt]

theorem toNat_formatA (o : Nibble) (nnn : Addr) : (formatA o nnn).toNat = o.toNat * 4096 + nnn.toNat := by
  rw [formatA, toNat_append_eq]
  omega

theorem toNat_formatXI (o : Nibble) (x : RegIx) (nn : Byte) :
    (formatXI o x nn).toNat = o.toNat * 4096 + x.toNat * 256 + nn.toNat := by
  rw [formatXI, toNat_append_eq, toNat_append_eq]
  omega

theorem toNat_formatXY (o : Nibble) (x y : RegIx) (n : Nibble) :
    (formatXY o x y n).toNat = o.toNat * 4096 + x.toNat * 256 + y.toNat * 16 + n.toNat := by
  rw [formatXY, toNat_append_eq, toNat_append_eq, toNat_append_eq]
  omega

/-! ### The fields of a format -/

section Fields

variable (o n : Nibble) (x y : RegIx) (nn : Byte) (nnn : Addr)

@[simp] theorem opField_formatA : opField (formatA o nnn) = o := by
  apply BitVec.eq_of_toNat_eq
  have := nnn.isLt
  rw [toNat_opField, toNat_formatA]
  omega

@[simp] theorem nnnField_formatA : nnnField (formatA o nnn) = nnn := by
  apply BitVec.eq_of_toNat_eq
  have := nnn.isLt
  rw [toNat_nnnField, toNat_formatA]
  omega

@[simp] theorem opField_formatXI : opField (formatXI o x nn) = o := by
  apply BitVec.eq_of_toNat_eq
  have := nn.isLt
  have := x.isLt
  rw [toNat_opField, toNat_formatXI]
  omega

@[simp] theorem xField_formatXI : xField (formatXI o x nn) = x := by
  apply BitVec.eq_of_toNat_eq
  have := nn.isLt
  have := x.isLt
  rw [toNat_xField, toNat_formatXI]
  omega

@[simp] theorem nnField_formatXI : nnField (formatXI o x nn) = nn := by
  apply BitVec.eq_of_toNat_eq
  have := nn.isLt
  rw [toNat_nnField, toNat_formatXI]
  omega

@[simp] theorem opField_formatXY : opField (formatXY o x y n) = o := by
  apply BitVec.eq_of_toNat_eq
  have := x.isLt
  have := y.isLt
  have := n.isLt
  rw [toNat_opField, toNat_formatXY]
  omega

@[simp] theorem xField_formatXY : xField (formatXY o x y n) = x := by
  apply BitVec.eq_of_toNat_eq
  have := x.isLt
  have := y.isLt
  have := n.isLt
  rw [toNat_xField, toNat_formatXY]
  omega

@[simp] theorem yField_formatXY : yField (formatXY o x y n) = y := by
  apply BitVec.eq_of_toNat_eq
  have := y.isLt
  have := n.isLt
  rw [toNat_yField, toNat_formatXY]
  omega

@[simp] theorem nField_formatXY : nField (formatXY o x y n) = n := by
  apply BitVec.eq_of_toNat_eq
  have := n.isLt
  rw [toNat_nField, toNat_formatXY]
  omega

end Fields

/-! ### A word is the encoding of its fields -/

theorem formatA_fields (op : Word) : formatA (opField op) (nnnField op) = op := by
  apply BitVec.eq_of_toNat_eq
  have := op.isLt
  rw [toNat_formatA, toNat_opField, toNat_nnnField]
  omega

theorem formatXI_fields (op : Word) : formatXI (opField op) (xField op) (nnField op) = op := by
  apply BitVec.eq_of_toNat_eq
  have := op.isLt
  rw [toNat_formatXI, toNat_opField, toNat_xField, toNat_nnField]
  omega

theorem formatXY_fields (op : Word) : formatXY (opField op) (xField op) (yField op) (nField op) = op := by
  apply BitVec.eq_of_toNat_eq
  have := op.isLt
  rw [toNat_formatXY, toNat_opField, toNat_xField, toNat_yField, toNat_nField]
  omega

/-- The two bytes of a word, joined big-endian, are the word (20_memory.md R64). -/
theorem wordOfBytes_hi_lo (op : Word) : wordOfBytes (hiByte op) (loByte op) = op := by
  apply BitVec.eq_of_toNat_eq
  rw [wordOfBytes, toNat_append_eq, toNat_hiByte, toNat_loByte]
  omega

/-- Every instruction passes the operand check, since its fields have exactly their widths (R93). -/
theorem Instr.wellFormed (i : Instr) : i.WellFormed = true := by
  cases i <;> simp [Instr.WellFormed, Instr.operands, Operand.WellFormed] <;> omega

end Sys2Proof
end

