-- ==== Sys2Proof/Laws/Display.lean ====
section
/-! SUPPORT. What reading a pixel gives after the operations on the framebuffer (spec 44_display.md R210, R213). -/

namespace Sys2Proof.Machine

/-- Two framebuffers with the same pixels are the same. -/
theorem Screen.ext_pixel {fb fb' : Screen} (h : ∀ x < 64, ∀ y < 32, pixel fb x y = pixel fb' x y) : fb = fb' := by
  refine Vector.ext fun y hy => BitVec.eq_of_getLsbD_eq fun x hx => ?_
  have := h x hx y hy
  simpa [pixel, Nat.mod_eq_of_lt hx, Nat.mod_eq_of_lt hy] using this

/-- Flipping a pixel changes that pixel alone, coordinates taken modulo 64 and 32. -/
theorem pixel_flipPixel (fb : Screen) (x y x' y' : Nat) :
    pixel (flipPixel fb x' y') x y =
      (pixel fb x y ^^ decide (x % 64 = x' % 64 ∧ y % 32 = y' % 32)) := by
  have hx : x % 64 < 64 := Nat.mod_lt _ (by decide)
  simp only [pixel, flipPixel, Vector.getElem_set]
  by_cases hy : y' % 32 = y % 32
  · simp [hy, hx]
  · simp [hy, Ne.symm hy]

theorem pixel_mod (fb : Screen) (x y : Nat) : pixel fb (x % 64) (y % 32) = pixel fb x y := by
  simp [pixel]

@[simp] theorem pixel_blankScreen (x y : Nat) : pixel blankScreen x y = false := by
  simp [pixel, blankScreen]

/-- One bit of a sprite row (R213). -/
theorem drawBit_eq (x0 y : Nat) (row : Byte) (acc : Screen × Bool) (b : Nat) :
    drawBit x0 y row acc b =
      if row.getLsbD (7 - b) then (flipPixel acc.1 (x0 + b) y, acc.2 || pixel acc.1 (x0 + b) y) else acc := rfl

/-- The first `n` bits of a sprite row: exactly the pixels under a bit that is 1 are flipped, and a collision is
recorded when one of them was set (R213). -/
theorem drawBits (x0 y : Nat) (row : Byte) (acc : Screen × Bool) {n : Nat} (hn : n ≤ 8) :
    (∀ x y', pixel ((List.range n).foldl (drawBit x0 y row) acc).1 x y' =
      (pixel acc.1 x y' ^^ (List.range n).any fun b =>
        row.getLsbD (7 - b) && (x % 64 == (x0 + b) % 64 && y' % 32 == y % 32))) ∧
    ((List.range n).foldl (drawBit x0 y row) acc).2 =
      (acc.2 || (List.range n).any fun b => row.getLsbD (7 - b) && pixel acc.1 (x0 + b) y) := by
  induction n with
  | zero => simp
  | succ n ih =>
    obtain ⟨ih1, ih2⟩ := ih (by omega)
    rw [List.range_succ, List.foldl_append, List.foldl_cons, List.foldl_nil, drawBit_eq]
    by_cases hb : row.getLsbD (7 - n) = true
    · have hnew : ∀ x y', x % 64 = (x0 + n) % 64 → ((List.range n).any fun b =>
          row.getLsbD (7 - b) && (x % 64 == (x0 + b) % 64 && y' % 32 == y % 32)) = false := by
        intro x y' h
        simp only [List.any_eq_false, List.mem_range, Bool.and_eq_true, beq_iff_eq]
        rintro b hb ⟨-, h', -⟩
        omega
      simp only [hb, if_true, pixel_flipPixel, ih1, ih2, List.any_append, List.any_cons, List.any_nil, Bool.true_and,
        Bool.or_false, hnew _ _ rfl, Bool.xor_false, Bool.or_assoc, and_true]
      intro x y'
      by_cases hx : x % 64 = (x0 + n) % 64
      · rw [hnew x y' hx]
        by_cases hy : y' % 32 = y % 32 <;> simp [hx, hy, beq_eq_false_iff_ne.2]
      · simp [hx]
    · simp only [hb, Bool.false_eq_true, if_false, List.any_append, List.any_cons, List.any_nil, Bool.false_and,
        Bool.or_false]
      exact ⟨ih1, ih2⟩

/-- One row of a sprite (R213): all that `drawRow` does. -/
theorem drawRow_spec (x0 y : Nat) (row : Byte) (acc : Screen × Bool) :
    (∀ x y', pixel (drawRow x0 y row acc).1 x y' =
      (pixel acc.1 x y' ^^ (List.range 8).any fun b =>
        row.getLsbD (7 - b) && (x % 64 == (x0 + b) % 64 && y' % 32 == y % 32))) ∧
    (drawRow x0 y row acc).2 =
      (acc.2 || (List.range 8).any fun b => row.getLsbD (7 - b) && pixel acc.1 (x0 + b) y) :=
  drawBits x0 y row acc (Nat.le_refl 8)

theorem drawRows_append (x0 y : Nat) (rows rows' : List Byte) (acc : Screen × Bool) :
    drawRows x0 y (rows ++ rows') acc = drawRows x0 (y + rows.length) rows' (drawRows x0 y rows acc) := by
  induction rows generalizing y acc with
  | nil => rfl
  | cons row rows ih =>
    simp only [List.cons_append, drawRows, ih, List.length_cons]
    rw [Nat.add_right_comm, Nat.add_assoc]

end Sys2Proof.Machine
end

