-- ==== Sys2Proof/Laws/Memory.lean ====
section
/-! SUPPORT. What every memory operation does: read after write, and that the canonical form is kept. -/

namespace Sys2Proof.Machine

theorem unlisted_of_ge {a : Nat} (h : 80 ≤ a) : unlisted a = memFill := by
  have : font.length = 80 := by decide
  exact List.getD_eq_default _ _ (by omega)

@[simp] theorem Memory.read_nil (a : Nat) : Memory.read [] a = unlisted a := rfl

theorem Memory.read_erase (m : Memory) (a a' : Nat) :
    (Memory.erase m a).read a' = if a' = a then unlisted a' else m.read a' := by
  induction m with
  | nil => simp [Memory.erase]
  | cons c m ih =>
    simp only [Memory.erase, List.filter_cons] at ih ⊢
    by_cases hc : c.1 = a
    · by_cases ha : a' = a
      · simp_all
      · simp [hc, ih, ha, Memory.read, Ne.symm ha]
    · by_cases ha : a' = a <;> by_cases hca : c.1 = a' <;> simp_all [Memory.read]

theorem Memory.read_insert (m : Memory) (a a' : Nat) (b : Byte) (h : ∀ c ∈ m, c.1 ≠ a) :
    (Memory.insert m a b).read a' = if a' = a then b else m.read a' := by
  induction m with
  | nil => simp [Memory.insert, Memory.read, eq_comm]
  | cons c m ih =>
    have ih := ih fun d hd => h d (List.mem_cons_of_mem c hd)
    have hc : c.1 ≠ a := h c (by simp)
    unfold Memory.insert
    split
    · simp [Memory.read, eq_comm]
    · by_cases ha : a' = a
      · subst ha; simp [Memory.read, hc, ih]
      · simp [Memory.read, ih, ha]

theorem Memory.ne_of_mem_erase {m : Memory} {a : Nat} {c : Host.Cell} (h : c ∈ Memory.erase m a) : c.1 ≠ a := by
  simpa using (List.mem_filter.1 h).2

/-- Read after write: the byte written at its address, and every other byte as before (20_memory.md R62). It needs no
premise on the form of memory. -/
theorem Memory.read_write (m : Memory) (a a' : Nat) (b : Byte) :
    (m.write a b).read a' = if a' = a then b else m.read a' := by
  unfold Memory.write
  split
  · rename_i hb
    rw [Memory.read_erase]
    split <;> simp_all
  · rw [Memory.read_insert _ _ _ _ fun c hc => Memory.ne_of_mem_erase hc, Memory.read_erase]
    split <;> simp_all

@[simp] theorem Memory.read_write_same (m : Memory) (a : Nat) (b : Byte) : (m.write a b).read a = b := by
  simp [Memory.read_write]

theorem Memory.read_write_ne (m : Memory) {a a' : Nat} (b : Byte) (h : a' ≠ a) :
    (m.write a b).read a' = m.read a' := by
  simp [Memory.read_write, h]

/-- Read after a block write: the `k`-th byte at the `k`-th address, every other byte as before
(20_memory.md R65). -/
theorem Memory.read_writeBytes (m : Memory) (a a' : Nat) (bs : List Byte) :
    (m.writeBytes a bs).read a' = if h : a ≤ a' ∧ a' - a < bs.length then bs[a' - a] else m.read a' := by
  induction bs generalizing m a with
  | nil => simp [Memory.writeBytes]
  | cons b bs ih =>
    rw [Memory.writeBytes, ih]
    by_cases h1 : a' = a
    · subst h1
      simp [show ¬(a' + 1 ≤ a') by omega]
    · by_cases h2 : a + 1 ≤ a' ∧ a' - (a + 1) < bs.length
      · rw [dif_pos h2, dif_pos (by simp; omega)]
        simp [show a' - a = (a' - (a + 1)) + 1 by omega]
      · rw [dif_neg h2, dif_neg (by simp; omega), Memory.read_write_ne _ _ h1]

/-! ### The canonical form -/

theorem Memory.wf_nil : Memory.wf [] := by simp [Memory.wf]

theorem Memory.wf_erase {m : Memory} (h : m.wf) (a : Nat) : (Memory.erase m a).wf :=
  ⟨h.1.filter _, fun c hc => h.2 c (List.mem_filter.1 hc).1⟩

theorem Memory.mem_insert {m : Memory} {a : Nat} {b : Byte} {c : Host.Cell} :
    c ∈ Memory.insert m a b ↔ c = (a, b) ∨ c ∈ m := by
  induction m with
  | nil => simp [Memory.insert]
  | cons d m ih =>
    unfold Memory.insert
    split
    · simp
    · simp [ih]; tauto

theorem Memory.wf_insert {m : Memory} {a : Nat} {b : Byte} (h : m.wf) (hm : ∀ c ∈ m, c.1 ≠ a)
    (ha : a < memSize) (hb : b ≠ unlisted a) : (Memory.insert m a b).wf := by
  refine ⟨?_, fun c hc => ?_⟩
  · induction m with
    | nil => simp [Memory.insert]
    | cons d m ih =>
      have hp := List.pairwise_cons.1 h.1
      have ih := ih ⟨hp.2, fun c hc => h.2 c (by simp [hc])⟩ fun c hc => hm c (by simp [hc])
      have hd : d.1 ≠ a := hm d (by simp)
      unfold Memory.insert
      split
      · rename_i had
        refine List.pairwise_cons.2 ⟨fun c hc => ?_, h.1⟩
        rcases List.mem_cons.1 hc with rfl | hc
        · exact had
        · exact lt_trans had (hp.1 c hc)
      · rename_i had
        refine List.pairwise_cons.2 ⟨fun c hc => ?_, ih⟩
        rcases Memory.mem_insert.1 hc with rfl | hc
        · show d.1 < a
          omega
        · exact hp.1 c hc
  · rcases Memory.mem_insert.1 hc with rfl | hc
    · exact ⟨ha, hb⟩
    · exact h.2 c hc

/-- A write to an address that exists keeps the canonical form. -/
theorem Memory.wf_write {m : Memory} (h : m.wf) {a : Nat} (ha : a < memSize) (b : Byte) : (m.write a b).wf := by
  unfold Memory.write
  split
  · exact Memory.wf_erase h a
  · rename_i hb
    exact Memory.wf_insert (Memory.wf_erase h a) (fun c hc => Memory.ne_of_mem_erase hc) ha hb

/-- A block write to addresses that exist keeps the canonical form. -/
theorem Memory.wf_writeBytes {m : Memory} (h : m.wf) {a : Nat} (bs : List Byte) (ha : a + bs.length ≤ memSize) :
    (m.writeBytes a bs).wf := by
  induction bs generalizing m a with
  | nil => exact h
  | cons b bs ih =>
    simp only [List.length_cons] at ha
    exact ih (Memory.wf_write h (by omega) b) (by omega)

theorem Memory.wf_filterMap (f : Nat → Byte) (l : List Nat) (hl : l.Pairwise (· < ·)) (hs : ∀ a ∈ l, a < memSize) :
    Memory.wf (l.filterMap fun a => if f a = unlisted a then none else some (a, f a)) := by
  refine ⟨?_, fun c hc => ?_⟩
  · refine hl.filterMap _ fun _ _ haa c hc d hd => ?_
    split at hc <;> split at hd <;> simp_all
    rw [← hc, ← hd]
    exact haa
  · obtain ⟨a, ha, hc⟩ := List.mem_filterMap.1 hc
    split at hc
    · cases hc
    · cases hc
      exact ⟨hs a ha, ‹_›⟩

/-- Memory laid out from a function of the address is in canonical form. -/
theorem Memory.wf_ofBytes (f : Nat → Byte) : (Memory.ofBytes f).wf := by
  unfold Memory.ofBytes
  exact Memory.wf_filterMap f _ List.pairwise_lt_range fun _ ha => List.mem_range.1 ha

theorem Memory.read_filterMap (f : Nat → Byte) (l : List Nat) (a : Nat) :
    Memory.read (l.filterMap fun a => if f a = unlisted a then none else some (a, f a)) a =
      if a ∈ l then f a else unlisted a := by
  induction l with
  | nil => rfl
  | cons d l ih =>
    by_cases hd : f d = unlisted d
    · simp only [List.filterMap_cons, hd, if_true, ih, List.mem_cons]
      by_cases hda : a = d
      · subst hda; simp [hd]
      · simp [hda]
    · simp only [List.filterMap_cons, hd, if_false, Memory.read, ih, List.mem_cons]
      by_cases hda : d = a
      · subst hda; simp
      · simp [hda, Ne.symm hda]

/-- Memory laid out from a function of the address reads as that function says. -/
theorem Memory.read_ofBytes (f : Nat → Byte) {a : Nat} (h : a < memSize) : (Memory.ofBytes f).read a = f a := by
  unfold Memory.ofBytes
  exact (Memory.read_filterMap f _ a).trans (if_pos (List.mem_range.2 h))

/-- No program loaded and the default parameters: nothing is listed. -/
theorem Memory.ofBytes_unlisted (f : Nat → Byte) (h : ∀ a < memSize, f a = unlisted a) : Memory.ofBytes f = [] := by
  unfold Memory.ofBytes
  exact List.filterMap_eq_nil_iff.2 fun a ha => if_pos (h a (List.mem_range.1 ha))

/-- The bounds check of every access, as the spec writes it (20_memory.md R77). -/
theorem inBounds_iff (a n : Nat) : inBounds a n = true ↔ n = 0 ∨ a + n ≤ 4096 := by
  rw [inBounds, Bool.or_eq_true, beq_iff_eq, decide_eq_true_eq, memSize]

theorem inBounds_eq_false_iff (a n : Nat) : inBounds a n = false ↔ 1 ≤ n ∧ 4096 ≤ a + n - 1 := by
  rw [← Bool.not_eq_true, inBounds_iff]
  omega

@[simp] theorem Memory.length_readBytes (m : Memory) (a n : Nat) : (m.readBytes a n).length = n := by
  simp [Memory.readBytes]

@[simp] theorem Memory.getElem_readBytes (m : Memory) (a n k : Nat) (h : k < (m.readBytes a n).length) :
    (m.readBytes a n)[k] = m.read (a + k) := by
  simp [Memory.readBytes]

end Sys2Proof.Machine
end

