-- ==== Sys2Proof/Laws/State.lean ====
section
/-! SUPPORT. One lemma per field per update of the state, so that no proof unfolds a record update. -/

namespace Sys2Proof.Machine

variable (s : State)

/-! ### `setReg` -/

@[simp] theorem State.setReg_i (x : RegIx) (b : Byte) : (s.setReg x b).i = s.i := rfl
@[simp] theorem State.setReg_pc (x : RegIx) (b : Byte) : (s.setReg x b).pc = s.pc := rfl
@[simp] theorem State.setReg_sp (x : RegIx) (b : Byte) : (s.setReg x b).sp = s.sp := rfl
@[simp] theorem State.setReg_stack (x : RegIx) (b : Byte) : (s.setReg x b).stack = s.stack := rfl
@[simp] theorem State.setReg_mem (x : RegIx) (b : Byte) : (s.setReg x b).mem = s.mem := rfl
@[simp] theorem State.setReg_fb (x : RegIx) (b : Byte) : (s.setReg x b).fb = s.fb := rfl
@[simp] theorem State.setReg_drawFlag (x : RegIx) (b : Byte) : (s.setReg x b).drawFlag = s.drawFlag := rfl
@[simp] theorem State.setReg_dt (x : RegIx) (b : Byte) : (s.setReg x b).dt = s.dt := rfl
@[simp] theorem State.setReg_st (x : RegIx) (b : Byte) : (s.setReg x b).st = s.st := rfl
@[simp] theorem State.setReg_fault (x : RegIx) (b : Byte) : (s.setReg x b).fault = s.fault := rfl
@[simp] theorem State.setReg_key (x : RegIx) (b : Byte) : (s.setReg x b).key = s.key := rfl
@[simp] theorem State.setReg_script (x : RegIx) (b : Byte) : (s.setReg x b).script = s.script := rfl
@[simp] theorem State.setReg_draws (x : RegIx) (b : Byte) : (s.setReg x b).draws = s.draws := rfl

/-! ### `setResultFlag` -/

@[simp] theorem State.setResultFlag_i (x : RegIx) (r f : Byte) : (s.setResultFlag x r f).i = s.i := rfl
@[simp] theorem State.setResultFlag_pc (x : RegIx) (r f : Byte) : (s.setResultFlag x r f).pc = s.pc := rfl
@[simp] theorem State.setResultFlag_sp (x : RegIx) (r f : Byte) : (s.setResultFlag x r f).sp = s.sp := rfl
@[simp] theorem State.setResultFlag_stack (x : RegIx) (r f : Byte) : (s.setResultFlag x r f).stack = s.stack := rfl
@[simp] theorem State.setResultFlag_mem (x : RegIx) (r f : Byte) : (s.setResultFlag x r f).mem = s.mem := rfl
@[simp] theorem State.setResultFlag_fb (x : RegIx) (r f : Byte) : (s.setResultFlag x r f).fb = s.fb := rfl
@[simp] theorem State.setResultFlag_drawFlag (x : RegIx) (r f : Byte) : (s.setResultFlag x r f).drawFlag = s.drawFlag := rfl
@[simp] theorem State.setResultFlag_dt (x : RegIx) (r f : Byte) : (s.setResultFlag x r f).dt = s.dt := rfl
@[simp] theorem State.setResultFlag_st (x : RegIx) (r f : Byte) : (s.setResultFlag x r f).st = s.st := rfl
@[simp] theorem State.setResultFlag_fault (x : RegIx) (r f : Byte) : (s.setResultFlag x r f).fault = s.fault := rfl
@[simp] theorem State.setResultFlag_key (x : RegIx) (r f : Byte) : (s.setResultFlag x r f).key = s.key := rfl
@[simp] theorem State.setResultFlag_script (x : RegIx) (r f : Byte) : (s.setResultFlag x r f).script = s.script := rfl
@[simp] theorem State.setResultFlag_draws (x : RegIx) (r f : Byte) : (s.setResultFlag x r f).draws = s.draws := rfl

/-! ### `loadRegs` -/

@[simp] theorem State.loadRegs_i (x : RegIx) (a : Nat) : (s.loadRegs x a).i = s.i := rfl
@[simp] theorem State.loadRegs_pc (x : RegIx) (a : Nat) : (s.loadRegs x a).pc = s.pc := rfl
@[simp] theorem State.loadRegs_sp (x : RegIx) (a : Nat) : (s.loadRegs x a).sp = s.sp := rfl
@[simp] theorem State.loadRegs_stack (x : RegIx) (a : Nat) : (s.loadRegs x a).stack = s.stack := rfl
@[simp] theorem State.loadRegs_mem (x : RegIx) (a : Nat) : (s.loadRegs x a).mem = s.mem := rfl
@[simp] theorem State.loadRegs_fb (x : RegIx) (a : Nat) : (s.loadRegs x a).fb = s.fb := rfl
@[simp] theorem State.loadRegs_drawFlag (x : RegIx) (a : Nat) : (s.loadRegs x a).drawFlag = s.drawFlag := rfl
@[simp] theorem State.loadRegs_dt (x : RegIx) (a : Nat) : (s.loadRegs x a).dt = s.dt := rfl
@[simp] theorem State.loadRegs_st (x : RegIx) (a : Nat) : (s.loadRegs x a).st = s.st := rfl
@[simp] theorem State.loadRegs_fault (x : RegIx) (a : Nat) : (s.loadRegs x a).fault = s.fault := rfl
@[simp] theorem State.loadRegs_key (x : RegIx) (a : Nat) : (s.loadRegs x a).key = s.key := rfl
@[simp] theorem State.loadRegs_script (x : RegIx) (a : Nat) : (s.loadRegs x a).script = s.script := rfl
@[simp] theorem State.loadRegs_draws (x : RegIx) (a : Nat) : (s.loadRegs x a).draws = s.draws := rfl

/-! ### `advance` -/

@[simp] theorem State.advance_v : (s.advance).v = s.v := rfl
@[simp] theorem State.advance_i : (s.advance).i = s.i := rfl
@[simp] theorem State.advance_pc : (s.advance).pc = s.pc + 2 := rfl
@[simp] theorem State.advance_sp : (s.advance).sp = s.sp := rfl
@[simp] theorem State.advance_stack : (s.advance).stack = s.stack := rfl
@[simp] theorem State.advance_mem : (s.advance).mem = s.mem := rfl
@[simp] theorem State.advance_fb : (s.advance).fb = s.fb := rfl
@[simp] theorem State.advance_drawFlag : (s.advance).drawFlag = s.drawFlag := rfl
@[simp] theorem State.advance_dt : (s.advance).dt = s.dt := rfl
@[simp] theorem State.advance_st : (s.advance).st = s.st := rfl
@[simp] theorem State.advance_fault : (s.advance).fault = s.fault := rfl
@[simp] theorem State.advance_key : (s.advance).key = s.key := rfl
@[simp] theorem State.advance_script : (s.advance).script = s.script := rfl
@[simp] theorem State.advance_draws : (s.advance).draws = s.draws := rfl
@[simp] theorem State.advance_reg (k : RegIx) : (s.advance).reg k = s.reg k := rfl

/-! ### `skipIf` -/

@[simp] theorem State.skipIf_v (c : Bool) : (s.skipIf c).v = s.v := rfl
@[simp] theorem State.skipIf_i (c : Bool) : (s.skipIf c).i = s.i := rfl
@[simp] theorem State.skipIf_pc (c : Bool) : (s.skipIf c).pc = if c then s.pc + 4 else s.pc + 2 := rfl
@[simp] theorem State.skipIf_sp (c : Bool) : (s.skipIf c).sp = s.sp := rfl
@[simp] theorem State.skipIf_stack (c : Bool) : (s.skipIf c).stack = s.stack := rfl
@[simp] theorem State.skipIf_mem (c : Bool) : (s.skipIf c).mem = s.mem := rfl
@[simp] theorem State.skipIf_fb (c : Bool) : (s.skipIf c).fb = s.fb := rfl
@[simp] theorem State.skipIf_drawFlag (c : Bool) : (s.skipIf c).drawFlag = s.drawFlag := rfl
@[simp] theorem State.skipIf_dt (c : Bool) : (s.skipIf c).dt = s.dt := rfl
@[simp] theorem State.skipIf_st (c : Bool) : (s.skipIf c).st = s.st := rfl
@[simp] theorem State.skipIf_fault (c : Bool) : (s.skipIf c).fault = s.fault := rfl
@[simp] theorem State.skipIf_key (c : Bool) : (s.skipIf c).key = s.key := rfl
@[simp] theorem State.skipIf_script (c : Bool) : (s.skipIf c).script = s.script := rfl
@[simp] theorem State.skipIf_draws (c : Bool) : (s.skipIf c).draws = s.draws := rfl
@[simp] theorem State.skipIf_reg (c : Bool) (k : RegIx) : (s.skipIf c).reg k = s.reg k := rfl

/-! ### `drawn` -/

@[simp] theorem State.drawn_v : (s.drawn).v = s.v := rfl
@[simp] theorem State.drawn_i : (s.drawn).i = s.i := rfl
@[simp] theorem State.drawn_pc : (s.drawn).pc = s.pc := rfl
@[simp] theorem State.drawn_sp : (s.drawn).sp = s.sp := rfl
@[simp] theorem State.drawn_stack : (s.drawn).stack = s.stack := rfl
@[simp] theorem State.drawn_mem : (s.drawn).mem = s.mem := rfl
@[simp] theorem State.drawn_fb : (s.drawn).fb = s.fb := rfl
@[simp] theorem State.drawn_drawFlag : (s.drawn).drawFlag = s.drawFlag := rfl
@[simp] theorem State.drawn_dt : (s.drawn).dt = s.dt := rfl
@[simp] theorem State.drawn_st : (s.drawn).st = s.st := rfl
@[simp] theorem State.drawn_fault : (s.drawn).fault = s.fault := rfl
@[simp] theorem State.drawn_key : (s.drawn).key = s.key := rfl
@[simp] theorem State.drawn_script : (s.drawn).script = s.script := rfl
@[simp] theorem State.drawn_draws : (s.drawn).draws = s.draws + 1 := rfl
@[simp] theorem State.drawn_reg (k : RegIx) : (s.drawn).reg k = s.reg k := rfl

/-! ### `tookRandom` -/

@[simp] theorem State.tookRandom_v : (s.tookRandom).v = s.v := rfl
@[simp] theorem State.tookRandom_i : (s.tookRandom).i = s.i := rfl
@[simp] theorem State.tookRandom_pc : (s.tookRandom).pc = s.pc := rfl
@[simp] theorem State.tookRandom_sp : (s.tookRandom).sp = s.sp := rfl
@[simp] theorem State.tookRandom_stack : (s.tookRandom).stack = s.stack := rfl
@[simp] theorem State.tookRandom_mem : (s.tookRandom).mem = s.mem := rfl
@[simp] theorem State.tookRandom_fb : (s.tookRandom).fb = s.fb := rfl
@[simp] theorem State.tookRandom_drawFlag : (s.tookRandom).drawFlag = s.drawFlag := rfl
@[simp] theorem State.tookRandom_dt : (s.tookRandom).dt = s.dt := rfl
@[simp] theorem State.tookRandom_st : (s.tookRandom).st = s.st := rfl
@[simp] theorem State.tookRandom_fault : (s.tookRandom).fault = s.fault := rfl
@[simp] theorem State.tookRandom_key : (s.tookRandom).key = s.key := rfl
@[simp] theorem State.tookRandom_script : (s.tookRandom).script = s.script.tail := rfl
@[simp] theorem State.tookRandom_draws : (s.tookRandom).draws = s.draws + 1 := rfl
@[simp] theorem State.tookRandom_reg (k : RegIx) : (s.tookRandom).reg k = s.reg k := rfl

/-! ### `finish` -/

@[simp] theorem State.finish_i (x : RegIx) (r : Byte) : (s.finish x r).i = s.i := rfl
@[simp] theorem State.finish_pc (x : RegIx) (r : Byte) : (s.finish x r).pc = s.pc + 2 := rfl
@[simp] theorem State.finish_sp (x : RegIx) (r : Byte) : (s.finish x r).sp = s.sp := rfl
@[simp] theorem State.finish_stack (x : RegIx) (r : Byte) : (s.finish x r).stack = s.stack := rfl
@[simp] theorem State.finish_mem (x : RegIx) (r : Byte) : (s.finish x r).mem = s.mem := rfl
@[simp] theorem State.finish_fb (x : RegIx) (r : Byte) : (s.finish x r).fb = s.fb := rfl
@[simp] theorem State.finish_drawFlag (x : RegIx) (r : Byte) : (s.finish x r).drawFlag = s.drawFlag := rfl
@[simp] theorem State.finish_dt (x : RegIx) (r : Byte) : (s.finish x r).dt = s.dt := rfl
@[simp] theorem State.finish_st (x : RegIx) (r : Byte) : (s.finish x r).st = s.st := rfl
@[simp] theorem State.finish_fault (x : RegIx) (r : Byte) : (s.finish x r).fault = s.fault := rfl
@[simp] theorem State.finish_key (x : RegIx) (r : Byte) : (s.finish x r).key = s.key := rfl
@[simp] theorem State.finish_script (x : RegIx) (r : Byte) : (s.finish x r).script = s.script := rfl
@[simp] theorem State.finish_draws (x : RegIx) (r : Byte) : (s.finish x r).draws = s.draws := rfl

/-! ### `finishFlag` -/

@[simp] theorem State.finishFlag_i (x : RegIx) (r : Byte) (f : Bool) : (s.finishFlag x r f).i = s.i := rfl
@[simp] theorem State.finishFlag_pc (x : RegIx) (r : Byte) (f : Bool) : (s.finishFlag x r f).pc = s.pc + 2 := rfl
@[simp] theorem State.finishFlag_sp (x : RegIx) (r : Byte) (f : Bool) : (s.finishFlag x r f).sp = s.sp := rfl
@[simp] theorem State.finishFlag_stack (x : RegIx) (r : Byte) (f : Bool) : (s.finishFlag x r f).stack = s.stack := rfl
@[simp] theorem State.finishFlag_mem (x : RegIx) (r : Byte) (f : Bool) : (s.finishFlag x r f).mem = s.mem := rfl
@[simp] theorem State.finishFlag_fb (x : RegIx) (r : Byte) (f : Bool) : (s.finishFlag x r f).fb = s.fb := rfl
@[simp] theorem State.finishFlag_drawFlag (x : RegIx) (r : Byte) (f : Bool) : (s.finishFlag x r f).drawFlag = s.drawFlag := rfl
@[simp] theorem State.finishFlag_dt (x : RegIx) (r : Byte) (f : Bool) : (s.finishFlag x r f).dt = s.dt := rfl
@[simp] theorem State.finishFlag_st (x : RegIx) (r : Byte) (f : Bool) : (s.finishFlag x r f).st = s.st := rfl
@[simp] theorem State.finishFlag_fault (x : RegIx) (r : Byte) (f : Bool) : (s.finishFlag x r f).fault = s.fault := rfl
@[simp] theorem State.finishFlag_key (x : RegIx) (r : Byte) (f : Bool) : (s.finishFlag x r f).key = s.key := rfl
@[simp] theorem State.finishFlag_script (x : RegIx) (r : Byte) (f : Bool) : (s.finishFlag x r f).script = s.script := rfl
@[simp] theorem State.finishFlag_draws (x : RegIx) (r : Byte) (f : Bool) : (s.finishFlag x r f).draws = s.draws := rfl

/-! ### `tickTimers` -/

@[simp] theorem State.tickTimers_v : (s.tickTimers).v = s.v := rfl
@[simp] theorem State.tickTimers_i : (s.tickTimers).i = s.i := rfl
@[simp] theorem State.tickTimers_pc : (s.tickTimers).pc = s.pc := rfl
@[simp] theorem State.tickTimers_sp : (s.tickTimers).sp = s.sp := rfl
@[simp] theorem State.tickTimers_stack : (s.tickTimers).stack = s.stack := rfl
@[simp] theorem State.tickTimers_mem : (s.tickTimers).mem = s.mem := rfl
@[simp] theorem State.tickTimers_fb : (s.tickTimers).fb = s.fb := rfl
@[simp] theorem State.tickTimers_drawFlag : (s.tickTimers).drawFlag = s.drawFlag := rfl
@[simp] theorem State.tickTimers_dt : (s.tickTimers).dt = tick s.dt := rfl
@[simp] theorem State.tickTimers_st : (s.tickTimers).st = tick s.st := rfl
@[simp] theorem State.tickTimers_fault : (s.tickTimers).fault = s.fault := rfl
@[simp] theorem State.tickTimers_key : (s.tickTimers).key = s.key := rfl
@[simp] theorem State.tickTimers_script : (s.tickTimers).script = s.script := rfl
@[simp] theorem State.tickTimers_draws : (s.tickTimers).draws = s.draws := rfl
@[simp] theorem State.tickTimers_reg (k : RegIx) : (s.tickTimers).reg k = s.reg k := rfl

/-! ### `writeKeys` -/

@[simp] theorem State.writeKeys_v (w : BitVec 16) : (s.writeKeys w).v = s.v := rfl
@[simp] theorem State.writeKeys_i (w : BitVec 16) : (s.writeKeys w).i = s.i := rfl
@[simp] theorem State.writeKeys_pc (w : BitVec 16) : (s.writeKeys w).pc = s.pc := rfl
@[simp] theorem State.writeKeys_sp (w : BitVec 16) : (s.writeKeys w).sp = s.sp := rfl
@[simp] theorem State.writeKeys_stack (w : BitVec 16) : (s.writeKeys w).stack = s.stack := rfl
@[simp] theorem State.writeKeys_mem (w : BitVec 16) : (s.writeKeys w).mem = s.mem := rfl
@[simp] theorem State.writeKeys_fb (w : BitVec 16) : (s.writeKeys w).fb = s.fb := rfl
@[simp] theorem State.writeKeys_drawFlag (w : BitVec 16) : (s.writeKeys w).drawFlag = s.drawFlag := rfl
@[simp] theorem State.writeKeys_dt (w : BitVec 16) : (s.writeKeys w).dt = s.dt := rfl
@[simp] theorem State.writeKeys_st (w : BitVec 16) : (s.writeKeys w).st = s.st := rfl
@[simp] theorem State.writeKeys_fault (w : BitVec 16) : (s.writeKeys w).fault = s.fault := rfl
@[simp] theorem State.writeKeys_key (w : BitVec 16) : (s.writeKeys w).key = w := rfl
@[simp] theorem State.writeKeys_script (w : BitVec 16) : (s.writeKeys w).script = s.script := rfl
@[simp] theorem State.writeKeys_draws (w : BitVec 16) : (s.writeKeys w).draws = s.draws := rfl
@[simp] theorem State.writeKeys_reg (w : BitVec 16) (k : RegIx) : (s.writeKeys w).reg k = s.reg k := rfl

/-! ### `drawAck` -/

@[simp] theorem State.drawAck_v : (s.drawAck).v = s.v := rfl
@[simp] theorem State.drawAck_i : (s.drawAck).i = s.i := rfl
@[simp] theorem State.drawAck_pc : (s.drawAck).pc = s.pc := rfl
@[simp] theorem State.drawAck_sp : (s.drawAck).sp = s.sp := rfl
@[simp] theorem State.drawAck_stack : (s.drawAck).stack = s.stack := rfl
@[simp] theorem State.drawAck_mem : (s.drawAck).mem = s.mem := rfl
@[simp] theorem State.drawAck_fb : (s.drawAck).fb = s.fb := rfl
@[simp] theorem State.drawAck_drawFlag : (s.drawAck).drawFlag = false := rfl
@[simp] theorem State.drawAck_dt : (s.drawAck).dt = s.dt := rfl
@[simp] theorem State.drawAck_st : (s.drawAck).st = s.st := rfl
@[simp] theorem State.drawAck_fault : (s.drawAck).fault = s.fault := rfl
@[simp] theorem State.drawAck_key : (s.drawAck).key = s.key := rfl
@[simp] theorem State.drawAck_script : (s.drawAck).script = s.script := rfl
@[simp] theorem State.drawAck_draws : (s.drawAck).draws = s.draws := rfl
@[simp] theorem State.drawAck_reg (k : RegIx) : (s.drawAck).reg k = s.reg k := rfl

/-! ### `supplyRandom` -/

@[simp] theorem State.supplyRandom_v (bs : List Byte) : (s.supplyRandom bs).v = s.v := rfl
@[simp] theorem State.supplyRandom_i (bs : List Byte) : (s.supplyRandom bs).i = s.i := rfl
@[simp] theorem State.supplyRandom_pc (bs : List Byte) : (s.supplyRandom bs).pc = s.pc := rfl
@[simp] theorem State.supplyRandom_sp (bs : List Byte) : (s.supplyRandom bs).sp = s.sp := rfl
@[simp] theorem State.supplyRandom_stack (bs : List Byte) : (s.supplyRandom bs).stack = s.stack := rfl
@[simp] theorem State.supplyRandom_mem (bs : List Byte) : (s.supplyRandom bs).mem = s.mem := rfl
@[simp] theorem State.supplyRandom_fb (bs : List Byte) : (s.supplyRandom bs).fb = s.fb := rfl
@[simp] theorem State.supplyRandom_drawFlag (bs : List Byte) : (s.supplyRandom bs).drawFlag = s.drawFlag := rfl
@[simp] theorem State.supplyRandom_dt (bs : List Byte) : (s.supplyRandom bs).dt = s.dt := rfl
@[simp] theorem State.supplyRandom_st (bs : List Byte) : (s.supplyRandom bs).st = s.st := rfl
@[simp] theorem State.supplyRandom_fault (bs : List Byte) : (s.supplyRandom bs).fault = s.fault := rfl
@[simp] theorem State.supplyRandom_key (bs : List Byte) : (s.supplyRandom bs).key = s.key := rfl
@[simp] theorem State.supplyRandom_script (bs : List Byte) : (s.supplyRandom bs).script = s.script ++ bs := rfl
@[simp] theorem State.supplyRandom_draws (bs : List Byte) : (s.supplyRandom bs).draws = s.draws := rfl
@[simp] theorem State.supplyRandom_reg (bs : List Byte) (k : RegIx) : (s.supplyRandom bs).reg k = s.reg k := rfl

end Sys2Proof.Machine
end

