-- ==== Sys2Proof/Laws/Ops.lean ====
section
/-! SUPPORT. One lemma per shared operation that says everything it does. -/

namespace Sys2Proof.Machine

/-! ### Registers -/

theorem State.reg_setReg (s : State) (x k : RegIx) (b : Byte) :
    (s.setReg x b).reg k = if k = x then b else s.reg k := by
  simp [State.setReg, State.reg, Vector.getElem_set, BitVec.toNat_inj, eq_comm]

@[simp] theorem State.reg_setReg_same (s : State) (x : RegIx) (b : Byte) : (s.setReg x b).reg x = b := by
  simp [State.reg_setReg]

theorem State.reg_setReg_ne (s : State) {x k : RegIx} (b : Byte) (h : k ≠ x) : (s.setReg x b).reg k = s.reg k := by
  simp [State.reg_setReg, h]

/-- Result first, flag last (42_alu.md R161). -/
theorem State.reg_setResultFlag (s : State) (x k : RegIx) (r f : Byte) :
    (s.setResultFlag x r f).reg k = if k = 0xF#4 then f else if k = x then r else s.reg k := by
  simp only [State.setResultFlag, State.reg_setReg, vf]
  rfl

theorem State.reg_finish (s : State) (x k : RegIx) (r : Byte) :
    (s.finish x r).reg k = if k = x then r else s.reg k := by
  simp [State.finish, State.reg_setReg]

theorem State.reg_finishFlag (s : State) (x k : RegIx) (r : Byte) (f : Bool) :
    (s.finishFlag x r f).reg k = if k = 0xF#4 then flagByte f else if k = x then r else s.reg k := by
  simp [State.finishFlag, State.reg_setResultFlag]

theorem State.reg_loadRegs (s : State) (x k : RegIx) (a : Nat) :
    (s.loadRegs x a).reg k = if k.toNat ≤ x.toNat then s.mem.read (a + k.toNat) else s.reg k := by
  simp [State.loadRegs, State.reg]

theorem State.length_regsUpTo (s : State) (x : RegIx) : (s.regsUpTo x).length = x.toNat + 1 := by
  have := x.isLt
  simp [State.regsUpTo]
  omega

theorem State.getElem_regsUpTo (s : State) (x k : RegIx) (h : k.toNat ≤ x.toNat) :
    (s.regsUpTo x)[k.toNat]'(by rw [State.length_regsUpTo]; omega) = s.reg k := by
  simp [State.regsUpTo, State.reg]

/-- Two states with the same registers, read one by one, have the same register file. -/
theorem State.v_ext {s t : State} (h : ∀ k, s.reg k = t.reg k) : s.v = t.v := by
  refine Vector.ext fun k hk => ?_
  have := h (BitVec.ofNat 4 k)
  simpa [State.reg, Nat.mod_eq_of_lt hk] using this

@[simp] theorem toNat_flagByte (c : Bool) : (flagByte c).toNat = if c then 1 else 0 := by cases c <;> rfl

/-! ### The end of a step -/

/-- Taking a fatal condition always answers a next state, in which only the latch differs (60_exceptions.md R258). -/
theorem raise_eq (f : Fault) (s : State) : raise f s = .next { s with fault := some f } := rfl

/-- The policy this machine takes for an unknown opcode is the fatal one (60_exceptions.md R251). -/
theorem unknownOpcode_policy (op : Word) (s : State) :
    unknownOpcode policy.unknown op s = raise (.unknownInstruction op) s := rfl

/-! ### Fetch -/

theorem toNat_wordOfBytes (hi lo : Byte) : (wordOfBytes hi lo).toNat = hi.toNat * 256 + lo.toNat := by
  rw [wordOfBytes, BitVec.toNat_append, Nat.shiftLeft_eq, Nat.mul_comm, ← Nat.two_pow_add_eq_or_of_lt lo.isLt]

/-- A fetch answers exactly when both bytes exist, with their big-endian word (40_step_cycle.md R122). -/
theorem fetch_eq_some_iff (s : State) (op : Word) :
    fetch s = some op ↔ s.pc.toNat + 1 < 4096 ∧
      op.toNat = (s.mem.read s.pc.toNat).toNat * 256 + (s.mem.read (s.pc.toNat + 1)).toNat := by
  unfold fetch
  split
  · rename_i h
    have h := (inBounds_iff _ _).1 h
    rw [Option.some.injEq, ← BitVec.toNat_inj, toNat_wordOfBytes]
    exact ⟨fun e => ⟨by omega, e.symm⟩, fun e => e.2.symm⟩
  · rename_i h
    have h := mt (inBounds_iff _ _).2 h
    constructor
    · intro e; cases e
    · rintro ⟨_, _⟩; omega

theorem fetch_eq_none_iff (s : State) : fetch s = none ↔ 4095 ≤ s.pc.toNat := by
  unfold fetch
  split
  · rename_i h
    have h := (inBounds_iff _ _).1 h
    simp; omega
  · rename_i h
    have h := mt (inBounds_iff _ _).2 h
    simp; omega

/-- What a step can do, said once, for any policy and meanings: it stutters on a loaded latch, raises a fetch fault, treats
an opcode as unknown, or is the meaning of the decoded instruction (40_step_cycle.md R121 to R124). -/
theorem stepWith_cases (p : UnknownPolicy) (run : Instr → State → Result) (s : State) :
    (s.fault ≠ none ∧ stepWith p run s = .next s) ∨
    (s.fault = none ∧ fetch s = none ∧ stepWith p run s = raise .memoryOutOfBounds s) ∨
    (∃ op, s.fault = none ∧ fetch s = some op ∧ decodeWord op = none ∧
      stepWith p run s = unknownOpcode p op s) ∨
    (∃ op i, s.fault = none ∧ fetch s = some op ∧ decodeWord op = some i ∧ stepWith p run s = run i s) := by
  cases hf : s.fault with
  | some f => exact .inl ⟨by simp, by simp [stepWith, hf]⟩
  | none =>
    cases ho : fetch s with
    | none => exact .inr (.inl ⟨rfl, rfl, by simp [stepWith, hf, ho]⟩)
    | some op =>
      cases hd : decodeWord op with
      | none => exact .inr (.inr (.inl ⟨op, rfl, rfl, hd, by simp [stepWith, hf, ho, hd]⟩))
      | some i => exact .inr (.inr (.inr ⟨op, i, rfl, rfl, hd, by simp [stepWith, hf, ho, hd]⟩))

/-- The same of this machine's step, an unknown opcode raising UnknownInstruction. -/
theorem step_cases (s : State) :
    (s.fault ≠ none ∧ step s = .next s) ∨
    (s.fault = none ∧ fetch s = none ∧ step s = raise .memoryOutOfBounds s) ∨
    (∃ op, s.fault = none ∧ fetch s = some op ∧ decodeWord op = none ∧
      step s = raise (.unknownInstruction op) s) ∨
    (∃ op i, s.fault = none ∧ fetch s = some op ∧ decodeWord op = some i ∧ step s = exec i s) :=
  stepWith_cases policy.unknown exec s

/-- Under this machine's policies every meaning is `exec`. -/
theorem execUnder_policy (i : Instr) (s : State) : execUnder policy i s = exec i s := by cases i <;> rfl

/-- A step that is ready to execute an opcode fetches it. -/
theorem fetch_of_ready {s : State} {op : Word} (h : Safety.ReadyToExecute s op) : fetch s = some op :=
  (fetch_eq_some_iff s op).2 ⟨h.2.1, h.2.2⟩

/-! ### The memory instructions and the operand checks -/

/-- A store through `i`: the bytes in order from `i`, or MemoryOutOfBounds with nothing written
(43_index_memory.md R193). -/
theorem storeAtIndex_eq (bs : List Byte) (s : State) :
    storeAtIndex bs s =
      if bs.length = 0 ∨ s.i.toNat + bs.length ≤ 4096 then
        .next { s with mem := s.mem.writeBytes s.i.toNat bs, pc := s.pc + 2 }
      else .next { s with fault := some .memoryOutOfBounds } := by
  simp only [storeAtIndex, inBounds_iff]
  rfl

theorem storeRegs_false_eq (x : RegIx) (s : State) :
    storeRegs false x s =
      if s.i.toNat + x.toNat < 4096 then
        .next { s with mem := s.mem.writeBytes s.i.toNat (s.regsUpTo x), pc := s.pc + 2 }
      else .next { s with fault := some .memoryOutOfBounds } := by
  simp only [storeRegs, inBounds_iff]
  split <;> split <;> first | rfl | omega

theorem loadRegs_false_eq (x : RegIx) (s : State) :
    loadRegs false x s =
      if s.i.toNat + x.toNat < 4096 then .next { s.loadRegs x s.i.toNat with pc := s.pc + 2 }
      else .next { s with fault := some .memoryOutOfBounds } := by
  simp only [loadRegs, inBounds_iff]
  split <;> split <;> first | rfl | omega

/-- The key operand under the spec's policy: the digit itself, or nothing above 0xF (45_keys_timers.md R236). -/
theorem keyOperand_fault (b : Byte) :
    keyOperand .fault b = if b.toNat ≤ 0xF then some (BitVec.ofNat 4 b.toNat) else none := by
  simp only [keyOperand]
  split
  · congr 1
  · rfl

theorem glyphOperand_fault (b : Byte) :
    glyphOperand .fault b = if b.toNat ≤ 0xF then some (BitVec.ofNat 16 (5 * b.toNat)) else none := rfl

/-- FX29 under the spec's policy (43_index_memory.md R192). -/
theorem loadGlyph_fault_eq (x : RegIx) (s : State) :
    loadGlyph .fault x s =
      if (s.reg x).toNat ≤ 0xF then .next { s with i := BitVec.ofNat 16 (5 * (s.reg x).toNat), pc := s.pc + 2 }
      else .next { s with fault := some (.operandOutOfRange (encode (.ldF x))) } := by
  rw [loadGlyph, glyphOperand_fault]
  by_cases h : (s.reg x).toNat ≤ 0xF <;> simp only [h, if_true, if_false] <;> rfl

/-- EX9E under the spec's policy (45_keys_timers.md R230). -/
theorem skipPressed_fault_eq (x : RegIx) (s : State) :
    skipPressed .fault x s =
      if (s.reg x).toNat ≤ 0xF then .next (s.skipIf (s.pressed (BitVec.ofNat 4 (s.reg x).toNat)))
      else .next { s with fault := some (.operandOutOfRange (encode (.skp x))) } := by
  rw [skipPressed, keyOperand_fault]
  by_cases h : (s.reg x).toNat ≤ 0xF <;> simp only [h, if_true, if_false, raise_eq]

/-- EXA1 under the spec's policy (45_keys_timers.md R231). -/
theorem skipNotPressed_fault_eq (x : RegIx) (s : State) :
    skipNotPressed .fault x s =
      if (s.reg x).toNat ≤ 0xF then .next (s.skipIf (!s.pressed (BitVec.ofNat 4 (s.reg x).toNat)))
      else .next { s with fault := some (.operandOutOfRange (encode (.sknp x))) } := by
  rw [skipNotPressed, keyOperand_fault]
  by_cases h : (s.reg x).toNat ≤ 0xF <;> simp only [h, if_true, if_false, raise_eq]

/-- FX55 that adds X + 1 to `i` is FX55 but for `i` (43_index_memory.md R194, D4). -/
theorem storeRegs_true_eq (x : RegIx) (s : State) :
    storeRegs true x s =
      if s.i.toNat + x.toNat < 4096 then
        .next { s with
          mem := s.mem.writeBytes s.i.toNat (s.regsUpTo x), i := s.i + x.setWidth 16 + 1, pc := s.pc + 2 }
      else .next { s with fault := some .memoryOutOfBounds } := by
  simp only [storeRegs, inBounds_iff]
  split <;> split <;> first | rfl | omega

/-- FX65 that adds X + 1 to `i` is FX65 but for `i` (43_index_memory.md R195, D4). -/
theorem loadRegs_true_eq (x : RegIx) (s : State) :
    loadRegs true x s =
      if s.i.toNat + x.toNat < 4096 then
        .next { s.loadRegs x s.i.toNat with i := s.i + x.setWidth 16 + 1, pc := s.pc + 2 }
      else .next { s with fault := some .memoryOutOfBounds } := by
  simp only [loadRegs, inBounds_iff]
  split <;> split <;> first | rfl | omega

/-- The opcode a step skips (30_encoding.md R98): only the skip policy skips one. -/
theorem skippedOpcode_eq_some_iff (p : UnknownPolicy) (s : State) (op : Word) :
    s.skippedOpcode p = some op ↔ p = .skip ∧ fetch s = some op ∧ decodeWord op = none := by
  unfold State.skippedOpcode
  cases hf : fetch s with
  | none => simp
  | some w =>
    cases hd : decodeWord w <;> cases p <;> simp [skippedReport, hd]
    · rintro rfl; exact hd
    · rintro rfl; simp [hd]

/-! ### Free values -/

theorem mem_pressedKeys (key : BitVec 16) (k : Nibble) : k ∈ pressedKeys key ↔ key.getLsbD k.toNat = true := by
  have hk := k.isLt
  simp only [pressedKeys, List.mem_map, List.mem_filter, List.mem_range]
  constructor
  · rintro ⟨n, ⟨hn, h⟩, rfl⟩
    simpa [Nat.mod_eq_of_lt hn] using h
  · intro h
    exact ⟨k.toNat, ⟨by omega, h⟩, by simp⟩

/-- FX0A's pick is nothing exactly when no key is pressed, and else some pressed key (45_keys_timers.md R232). -/
theorem pickedKey_eq_none_iff (s : State) : s.pickedKey = none ↔ s.key = 0 := by
  have hlen : s.pickedKey = none ↔ pressedKeys s.key = [] := by
    unfold State.pickedKey
    rw [List.getElem?_eq_none_iff]
    constructor
    · intro h
      by_contra hne
      have := Nat.mod_lt (Config.freePick s.draws) (List.length_pos_iff.2 hne)
      omega
    · intro h; simp [h]
  rw [hlen, List.eq_nil_iff_forall_not_mem]
  constructor
  · intro h
    refine BitVec.eq_of_getLsbD_eq fun n hn => ?_
    have := mt (mem_pressedKeys s.key (BitVec.ofNat 4 n)).2 (h _)
    simpa [Nat.mod_eq_of_lt (show n < 16 from hn)] using this
  · intro h k hk
    simp [mem_pressedKeys, h] at hk

theorem pickedKey_pressed {s : State} {k : Nibble} (h : s.pickedKey = some k) : s.key.getLsbD k.toNat = true :=
  (mem_pressedKeys _ _).1 (List.mem_of_getElem? h)

/-- With one key pressed the pick is that key, whatever the free value. -/
theorem pickedKey_of_single {s : State} {k : Nibble} (h : pressedKeys s.key = [k]) : s.pickedKey = some k := by
  simp [State.pickedKey, h, Nat.mod_one]

/-- CXNN's byte is the host's next one. -/
theorem randomByte_of_script {s : State} {b : Byte} {bs : List Byte} (h : s.script = b :: bs) : s.randomByte = b := by
  simp [State.randomByte, h]

/-- CXNN's byte is a free value when the host has supplied none. -/
theorem randomByte_of_nil {s : State} (h : s.script = []) : s.randomByte = Config.freeByte s.draws := by
  simp [State.randomByte, h]

/-! ### Reset -/

section Reset

variable (s : State) (fontBytes : List Byte) (fill : Nat → Byte) (image : List Byte)

theorem State.resetWith_mem : (s.resetWith fontBytes fill image).mem =
    Memory.ofBytes (resetByte fontBytes fill (if imageWellFormed image then image else [])) := rfl

theorem State.resetWith_fault : (s.resetWith fontBytes fill image).fault =
    if imageWellFormed image then none else some .programTooLarge := rfl

@[simp] theorem State.resetWith_v : (s.resetWith fontBytes fill image).v = State.reset.v := rfl
@[simp] theorem State.resetWith_reg (k : RegIx) : (s.resetWith fontBytes fill image).reg k = State.reset.reg k := rfl
@[simp] theorem State.resetWith_i : (s.resetWith fontBytes fill image).i = State.reset.i := rfl
@[simp] theorem State.resetWith_pc : (s.resetWith fontBytes fill image).pc = State.reset.pc := rfl
@[simp] theorem State.resetWith_sp : (s.resetWith fontBytes fill image).sp = State.reset.sp := rfl
@[simp] theorem State.resetWith_stack : (s.resetWith fontBytes fill image).stack = State.reset.stack := rfl
@[simp] theorem State.resetWith_fb : (s.resetWith fontBytes fill image).fb = State.reset.fb := rfl
@[simp] theorem State.resetWith_drawFlag : (s.resetWith fontBytes fill image).drawFlag = State.reset.drawFlag := rfl
@[simp] theorem State.resetWith_dt : (s.resetWith fontBytes fill image).dt = State.reset.dt := rfl
@[simp] theorem State.resetWith_st : (s.resetWith fontBytes fill image).st = State.reset.st := rfl
@[simp] theorem State.resetWith_key : (s.resetWith fontBytes fill image).key = s.key := rfl
@[simp] theorem State.resetWith_script : (s.resetWith fontBytes fill image).script = s.script := rfl
@[simp] theorem State.resetWith_draws : (s.resetWith fontBytes fill image).draws = s.draws := rfl

theorem imageWellFormed_iff : imageWellFormed image = true ↔ image.length ≤ 3584 := by
  rw [imageWellFormed, decide_eq_true_eq, maxProg]

/-- A byte of memory after the reset operation (10_state.md R40). -/
theorem State.read_resetWith {a : Nat} (h : a < memSize) :
    (s.resetWith fontBytes fill image).mem.read a =
      resetByte fontBytes fill (if imageWellFormed image then image else []) a := by
  rw [State.resetWith_mem, Memory.read_ofBytes _ h]

/-- Memory after the reset operation is in canonical form. -/
theorem State.wf_resetWith : (s.resetWith fontBytes fill image).mem.wf := by
  rw [State.resetWith_mem]
  exact Memory.wf_ofBytes _

end Reset

/-- With this machine's FONT and MEM_FILL, memory with no image listed is the reset memory. -/
theorem resetByte_nil {a : Nat} : resetByte font (fun _ => memFill) [] a = unlisted a := by
  unfold resetByte
  split
  · rfl
  · rename_i h
    rw [unlisted_of_ge (by simp [progBase] at h; omega)]
    simp

/-- The reset operation with the empty image is the reset state, with the host's own inputs kept
(70_reset_and_hazards.md R290). -/
theorem resetImage_nil (s : State) :
    s.resetImage [] = { State.reset with key := s.key, script := s.script, draws := s.draws } := by
  have hm : Memory.ofBytes (resetByte font (fun _ => memFill) []) = [] :=
    Memory.ofBytes_unlisted _ fun a _ => resetByte_nil
  simp [State.resetImage, State.resetWith, hm, imageWellFormed, State.reset]

end Sys2Proof.Machine
end

