-- ==== Sys2Proof/Laws/PerInstr.lean ====
section
/-! SUPPORT. A fact about every instruction as syntax: its encoded word carries the fixed bits of its own row of the
opcode table (spec 30_encoding.md R95), one lemma per constructor. -/

namespace Sys2Proof.Laws.Pattern

/-- The word of the instruction carries the fixed bits of the row with its mnemonic. -/
def Statement (i : Instr) : Prop :=
  ∃ r ∈ opcodeRows, r.mnemonic = mnemonicOf i ∧ encode i &&& r.mask = r.pattern

theorem formatA_fixed (o : Nibble) (nnn : Addr) : formatA o nnn &&& 0xF000 = formatA o 0 := by
  refine BitVec.eq_of_getLsbD_eq fun k hk => ?_
  simp only [formatA, BitVec.getLsbD_and, BitVec.getLsbD_append]
  interval_cases k <;> simp

theorem formatXI_fixed (o : Nibble) (x : RegIx) (nn : Byte) : formatXI o x nn &&& 0xF000 = formatXI o 0 0 := by
  refine BitVec.eq_of_getLsbD_eq fun k hk => ?_
  simp only [formatXI, BitVec.getLsbD_and, BitVec.getLsbD_append]
  interval_cases k <;> simp

theorem formatXK_fixed (o : Nibble) (x : RegIx) (nn : Byte) : formatXI o x nn &&& 0xF0FF = formatXI o 0 nn := by
  refine BitVec.eq_of_getLsbD_eq fun k hk => ?_
  simp only [formatXI, BitVec.getLsbD_and, BitVec.getLsbD_append]
  interval_cases k <;> simp

theorem formatXY_fixed (o : Nibble) (x y : RegIx) (n : Nibble) : formatXY o x y n &&& 0xF00F = formatXY o 0 0 n := by
  refine BitVec.eq_of_getLsbD_eq fun k hk => ?_
  simp only [formatXY, BitVec.getLsbD_and, BitVec.getLsbD_append]
  interval_cases k <;> simp

theorem formatXYN_fixed (o : Nibble) (x y : RegIx) (n : Nibble) : formatXY o x y n &&& 0xF000 = formatXY o 0 0 0 := by
  refine BitVec.eq_of_getLsbD_eq fun k hk => ?_
  simp only [formatXY, BitVec.getLsbD_and, BitVec.getLsbD_append]
  interval_cases k <;> simp

theorem cls : Statement (.cls) :=
  ⟨⟨"CLS", 0xFFFF, 0x00E0⟩, by decide, rfl, rfl⟩

theorem ret : Statement (.ret) :=
  ⟨⟨"RET", 0xFFFF, 0x00EE⟩, by decide, rfl, rfl⟩

theorem jp (nnn : Addr) : Statement (.jp nnn) :=
  ⟨⟨"JP", 0xF000, 0x1000⟩, by decide, rfl, (formatA_fixed ..).trans rfl⟩

theorem call (nnn : Addr) : Statement (.call nnn) :=
  ⟨⟨"CALL", 0xF000, 0x2000⟩, by decide, rfl, (formatA_fixed ..).trans rfl⟩

theorem seImm (x : RegIx) (nn : Byte) : Statement (.seImm x nn) :=
  ⟨⟨"SE_IMM", 0xF000, 0x3000⟩, by decide, rfl, (formatXI_fixed ..).trans rfl⟩

theorem sneImm (x : RegIx) (nn : Byte) : Statement (.sneImm x nn) :=
  ⟨⟨"SNE_IMM", 0xF000, 0x4000⟩, by decide, rfl, (formatXI_fixed ..).trans rfl⟩

theorem seReg (x y : RegIx) : Statement (.seReg x y) :=
  ⟨⟨"SE_REG", 0xF00F, 0x5000⟩, by decide, rfl, (formatXY_fixed ..).trans rfl⟩

theorem ldImm (x : RegIx) (nn : Byte) : Statement (.ldImm x nn) :=
  ⟨⟨"LD_IMM", 0xF000, 0x6000⟩, by decide, rfl, (formatXI_fixed ..).trans rfl⟩

theorem addImm (x : RegIx) (nn : Byte) : Statement (.addImm x nn) :=
  ⟨⟨"ADD_IMM", 0xF000, 0x7000⟩, by decide, rfl, (formatXI_fixed ..).trans rfl⟩

theorem ldReg (x y : RegIx) : Statement (.ldReg x y) :=
  ⟨⟨"LD_REG", 0xF00F, 0x8000⟩, by decide, rfl, (formatXY_fixed ..).trans rfl⟩

theorem orReg (x y : RegIx) : Statement (.orReg x y) :=
  ⟨⟨"OR", 0xF00F, 0x8001⟩, by decide, rfl, (formatXY_fixed ..).trans rfl⟩

theorem andReg (x y : RegIx) : Statement (.andReg x y) :=
  ⟨⟨"AND", 0xF00F, 0x8002⟩, by decide, rfl, (formatXY_fixed ..).trans rfl⟩

theorem xorReg (x y : RegIx) : Statement (.xorReg x y) :=
  ⟨⟨"XOR", 0xF00F, 0x8003⟩, by decide, rfl, (formatXY_fixed ..).trans rfl⟩

theorem addReg (x y : RegIx) : Statement (.addReg x y) :=
  ⟨⟨"ADD_REG", 0xF00F, 0x8004⟩, by decide, rfl, (formatXY_fixed ..).trans rfl⟩

theorem sub (x y : RegIx) : Statement (.sub x y) :=
  ⟨⟨"SUB", 0xF00F, 0x8005⟩, by decide, rfl, (formatXY_fixed ..).trans rfl⟩

theorem shr (x y : RegIx) : Statement (.shr x y) :=
  ⟨⟨"SHR", 0xF00F, 0x8006⟩, by decide, rfl, (formatXY_fixed ..).trans rfl⟩

theorem subn (x y : RegIx) : Statement (.subn x y) :=
  ⟨⟨"SUBN", 0xF00F, 0x8007⟩, by decide, rfl, (formatXY_fixed ..).trans rfl⟩

theorem shl (x y : RegIx) : Statement (.shl x y) :=
  ⟨⟨"SHL", 0xF00F, 0x800E⟩, by decide, rfl, (formatXY_fixed ..).trans rfl⟩

theorem sneReg (x y : RegIx) : Statement (.sneReg x y) :=
  ⟨⟨"SNE_REG", 0xF00F, 0x9000⟩, by decide, rfl, (formatXY_fixed ..).trans rfl⟩

theorem ldI (nnn : Addr) : Statement (.ldI nnn) :=
  ⟨⟨"LD_I", 0xF000, 0xA000⟩, by decide, rfl, (formatA_fixed ..).trans rfl⟩

theorem jpV0 (nnn : Addr) : Statement (.jpV0 nnn) :=
  ⟨⟨"JP_V0", 0xF000, 0xB000⟩, by decide, rfl, (formatA_fixed ..).trans rfl⟩

theorem rnd (x : RegIx) (nn : Byte) : Statement (.rnd x nn) :=
  ⟨⟨"RND", 0xF000, 0xC000⟩, by decide, rfl, (formatXI_fixed ..).trans rfl⟩

theorem drw (x y : RegIx) (n : Nibble) : Statement (.drw x y n) :=
  ⟨⟨"DRW", 0xF000, 0xD000⟩, by decide, rfl, (formatXYN_fixed ..).trans rfl⟩

theorem skp (x : RegIx) : Statement (.skp x) :=
  ⟨⟨"SKP", 0xF0FF, 0xE09E⟩, by decide, rfl, (formatXK_fixed ..).trans rfl⟩

theorem sknp (x : RegIx) : Statement (.sknp x) :=
  ⟨⟨"SKNP", 0xF0FF, 0xE0A1⟩, by decide, rfl, (formatXK_fixed ..).trans rfl⟩

theorem ldVxDt (x : RegIx) : Statement (.ldVxDt x) :=
  ⟨⟨"LD_VX_DT", 0xF0FF, 0xF007⟩, by decide, rfl, (formatXK_fixed ..).trans rfl⟩

theorem ldVxK (x : RegIx) : Statement (.ldVxK x) :=
  ⟨⟨"LD_VX_K", 0xF0FF, 0xF00A⟩, by decide, rfl, (formatXK_fixed ..).trans rfl⟩

theorem ldDtVx (x : RegIx) : Statement (.ldDtVx x) :=
  ⟨⟨"LD_DT_VX", 0xF0FF, 0xF015⟩, by decide, rfl, (formatXK_fixed ..).trans rfl⟩

theorem ldStVx (x : RegIx) : Statement (.ldStVx x) :=
  ⟨⟨"LD_ST_VX", 0xF0FF, 0xF018⟩, by decide, rfl, (formatXK_fixed ..).trans rfl⟩

theorem addI (x : RegIx) : Statement (.addI x) :=
  ⟨⟨"ADD_I", 0xF0FF, 0xF01E⟩, by decide, rfl, (formatXK_fixed ..).trans rfl⟩

theorem ldF (x : RegIx) : Statement (.ldF x) :=
  ⟨⟨"LD_F", 0xF0FF, 0xF029⟩, by decide, rfl, (formatXK_fixed ..).trans rfl⟩

theorem ldB (x : RegIx) : Statement (.ldB x) :=
  ⟨⟨"LD_B", 0xF0FF, 0xF033⟩, by decide, rfl, (formatXK_fixed ..).trans rfl⟩

theorem stRegs (x : RegIx) : Statement (.stRegs x) :=
  ⟨⟨"ST_REGS", 0xF0FF, 0xF055⟩, by decide, rfl, (formatXK_fixed ..).trans rfl⟩

theorem ldRegs (x : RegIx) : Statement (.ldRegs x) :=
  ⟨⟨"LD_REGS", 0xF0FF, 0xF065⟩, by decide, rfl, (formatXK_fixed ..).trans rfl⟩

end Sys2Proof.Laws.Pattern
end

