-- ==== Sys2Proof/Tests/Slice0.lean ====
section
/-! SUPPORT. Tests of the model: operands out of range, words written out bit by bit from the encodings of
30_encoding.md R95, one-step vectors of 95_test_vectors.md (each test names its row there), and for every obligation
with hypotheses a witness that meets them. Every expected result is the spec's. -/

namespace Sys2Proof.Tests

open Sys2Proof Sys2Proof.Machine Sys2Proof.Safety

/-! ## Helpers -/

/-- The next state of an answer, when it is one. -/
def nextOf : Result → Option State
  | .next t => some t
  | .fault _ => none
  | .refused _ => none

/-- The reset state with some registers written. -/
def withRegs (rs : List (RegIx × Byte)) : State := rs.foldl (fun s r => s.setReg r.1 r.2) State.reset

/-- One step of a state with a word placed where it fetches, and what is looked at in the result. -/
def afterStep {α : Type} (s : State) (w : Nat) (look : State → α) : Option α :=
  (nextOf (step (s.withFetchWord 16 w))).map look

/-- The framebuffer with some pixels set. -/
def pixels (ps : List (Nat × Nat)) : Screen := ps.foldl (fun fb p => flipPixel fb p.1 p.2) blankScreen

/-- A stack with one slot written. -/
def stackWith (k : Fin 16) (a : Word) : Vector Word 16 := State.reset.stack.set k.val a k.isLt

/-! ## Operands out of range (30_encoding.md R91, R100, R103) -/

theorem test_reg_16_illformed : Operand.WellFormed (.reg 16) = false := by decide
theorem test_reg_15_wellformed : Operand.WellFormed (.reg 15) = true := by decide
theorem test_byte_256_illformed : Operand.WellFormed (.byte 256) = false := by decide
theorem test_byte_255_wellformed : Operand.WellFormed (.byte 255) = true := by decide
theorem test_addr_4096_illformed : Operand.WellFormed (.addr 4096) = false := by decide
theorem test_addr_4095_wellformed : Operand.WellFormed (.addr 4095) = true := by decide
theorem test_nibble_16_illformed : Operand.WellFormed (.nibble 16) = false := by decide
theorem test_nibble_15_wellformed : Operand.WellFormed (.nibble 15) = true := by decide

/-- 70_reset_and_hazards.md R291: 3585 bytes are too many. -/
theorem test_image_3585_illformed : imageWellFormed (List.replicate 3585 0) = false := by
  rw [← Bool.not_eq_true, imageWellFormed_iff, List.length_replicate]
  decide

theorem test_image_3584_wellformed : imageWellFormed (List.replicate 3584 0) = true := by
  rw [imageWellFormed_iff, List.length_replicate]

/-! ## Decoding, each word written out from its row of 30_encoding.md R95 -/

theorem test_decode_cls : decodeWord 0b0000000011100000#16 = some .cls := by decide
theorem test_decode_ret : decodeWord 0b0000000011101110#16 = some .ret := by decide
theorem test_decode_jp : decodeWord 0b0001101010111100#16 = some (.jp 0xABC) := by decide
theorem test_decode_call : decodeWord 0b0010101010111100#16 = some (.call 0xABC) := by decide
theorem test_decode_seImm : decodeWord 0b0011001000000101#16 = some (.seImm 2 0x05) := by decide
theorem test_decode_sneImm : decodeWord 0b0100001000000110#16 = some (.sneImm 2 0x06) := by decide
theorem test_decode_seReg : decodeWord 0b0101000100100000#16 = some (.seReg 1 2) := by decide
theorem test_decode_ldImm : decodeWord 0b0110101011111110#16 = some (.ldImm 0xA 0xFE) := by decide
theorem test_decode_addImm : decodeWord 0b0111001100100000#16 = some (.addImm 3 0x20) := by decide
theorem test_decode_ldReg : decodeWord 0b1000000100100000#16 = some (.ldReg 1 2) := by decide
theorem test_decode_orReg : decodeWord 0b1000000100100001#16 = some (.orReg 1 2) := by decide
theorem test_decode_andReg : decodeWord 0b1000000100100010#16 = some (.andReg 1 2) := by decide
theorem test_decode_xorReg : decodeWord 0b1000000100100011#16 = some (.xorReg 1 2) := by decide
theorem test_decode_addReg : decodeWord 0b1000000100100100#16 = some (.addReg 1 2) := by decide
theorem test_decode_sub : decodeWord 0b1000000100100101#16 = some (.sub 1 2) := by decide
theorem test_decode_shr : decodeWord 0b1000001110100110#16 = some (.shr 3 0xA) := by decide
theorem test_decode_subn : decodeWord 0b1000000100100111#16 = some (.subn 1 2) := by decide
theorem test_decode_shl : decodeWord 0b1000001110101110#16 = some (.shl 3 0xA) := by decide
theorem test_decode_sneReg : decodeWord 0b1001000100100000#16 = some (.sneReg 1 2) := by decide
theorem test_decode_ldI : decodeWord 0b1010001100000001#16 = some (.ldI 0x301) := by decide
theorem test_decode_jpV0 : decodeWord 0b1011001011111110#16 = some (.jpV0 0x2FE) := by decide
theorem test_decode_rnd : decodeWord 0b1100001100001111#16 = some (.rnd 3 0x0F) := by decide
theorem test_decode_drw : decodeWord 0b1101000000010101#16 = some (.drw 0 1 5) := by decide
theorem test_decode_skp : decodeWord 0b1110010010011110#16 = some (.skp 4) := by decide
theorem test_decode_sknp : decodeWord 0b1110010010100001#16 = some (.sknp 4) := by decide
theorem test_decode_ldVxDt : decodeWord 0b1111001000000111#16 = some (.ldVxDt 2) := by decide
theorem test_decode_ldVxK : decodeWord 0b1111010100001010#16 = some (.ldVxK 5) := by decide
theorem test_decode_ldDtVx : decodeWord 0b1111000100010101#16 = some (.ldDtVx 1) := by decide
theorem test_decode_ldStVx : decodeWord 0b1111000100011000#16 = some (.ldStVx 1) := by decide
theorem test_decode_addI : decodeWord 0b1111000100011110#16 = some (.addI 1) := by decide
theorem test_decode_ldF : decodeWord 0b1111000100101001#16 = some (.ldF 1) := by decide
theorem test_decode_ldB : decodeWord 0b1111000100110011#16 = some (.ldB 1) := by decide
theorem test_decode_stRegs : decodeWord 0b1111001001010101#16 = some (.stRegs 2) := by decide
theorem test_decode_ldRegs : decodeWord 0b1111001001100101#16 = some (.ldRegs 2) := by decide

/-- Rows F3 to F6, T24, T25, A47, A48, K7, K16 and K17: words of no row. -/
theorem test_decode_unknown : ∀ w ∈ [0x0000, 0x0123, 0x00E1, 0x01E0, 0x5121, 0x9121, 0x8128, 0x812F, 0xE49F, 0xF100,
    0xF1FF], decodeWord (BitVec.ofNat 16 w) = none := by decide

/-- The first byte of the two is the most significant one (20_memory.md R64). -/
theorem test_decode_bytes : decode [0x63, 0x20, 0x73] = .ok (.ldImm 3 0x20, [0x73]) := by decide

theorem test_decode_one_byte : decode [0x63] = .error .tooShort := by decide

theorem test_decodeTableWord : decodeTableWord 16 0xD015 = some (.drw 0 1 5) := by decide

/-! ## One step (95_test_vectors.md section 2) -/

/-- T1. -/
theorem test_ret : afterStep { State.reset with pc := 0x020E, sp := 1, stack := stackWith 0 0x0208 } 0x00EE
    (fun t => (t.pc, t.sp, t.stack[0])) = some (0x0208, 0, 0x0208) := by decide

/-- T2. -/
theorem test_ret_underflow : afterStep State.reset 0x00EE (fun t => (t.pc, t.fault)) =
    some (0x0200, some .stackUnderflow) := by decide

/-- T4. -/
theorem test_jp : afterStep State.reset 0x1ABC (·.pc) = some 0x0ABC := by decide

/-- T8. -/
theorem test_call : afterStep { State.reset with pc := 0x0206, sp := 15 } 0x2ABC
    (fun t => (t.pc, t.sp, t.stack[15])) = some (0x0ABC, 16, 0x0208) := by decide

/-- T9. -/
theorem test_call_overflow : afterStep { State.reset with pc := 0x0206, sp := 16, stack := stackWith 15 0x0111 } 0x2ABC
    (fun t => (t.pc, t.sp, t.stack[15], t.fault)) = some (0x0206, 16, 0x0111, some .stackOverflow) := by
  decide

/-- T12. -/
theorem test_jpV0 : afterStep (withRegs [(0, 0xFF)]) 0xBFFF (·.pc) = some 0x10FE := by decide

/-- T13. -/
theorem test_jpV0_not_vx : afterStep (withRegs [(0, 0xFF), (2, 0x77)]) 0xB2FE (·.pc) = some 0x03FD := by
  decide

/-- T14. -/
theorem test_seImm : afterStep (withRegs [(2, 5)]) 0x3205 (·.pc) = some 0x0204 := by decide

/-- T15. -/
theorem test_seImm_not : afterStep (withRegs [(2, 5)]) 0x3206 (·.pc) = some 0x0202 := by decide

/-- T16. -/
theorem test_sneImm_not : afterStep (withRegs [(2, 5)]) 0x4205 (·.pc) = some 0x0202 := by decide

/-- T17. -/
theorem test_sneImm : afterStep (withRegs [(2, 5)]) 0x4206 (·.pc) = some 0x0204 := by decide

/-- T19. -/
theorem test_seReg_not : afterStep (withRegs [(1, 7), (2, 8)]) 0x5120 (·.pc) = some 0x0202 := by decide

/-- T20. -/
theorem test_seReg_self : afterStep (withRegs [(3, 9)]) 0x5330 (·.pc) = some 0x0204 := by decide

/-- T21. -/
theorem test_sneReg : afterStep (withRegs [(1, 7), (2, 8)]) 0x9120 (·.pc) = some 0x0204 := by decide

/-- T23. -/
theorem test_sneReg_self : afterStep (withRegs [(3, 9)]) 0x9330 (·.pc) = some 0x0202 := by decide

/-- F2: the last address a fetch can take both bytes from. -/
theorem test_ldImm_at_the_end : afterStep { State.reset with pc := 0x0FFE } 0x6005 (fun t => (t.reg 0, t.pc)) =
    some (5, 0x1000) := by decide

/-- F7: an odd pc is legal. -/
theorem test_ldImm_odd_pc : afterStep { State.reset with pc := 0x0201 } 0x6011 (fun t => (t.reg 0, t.pc)) =
    some (0x11, 0x0203) := by decide

/-- A4. -/
theorem test_addImm : afterStep (withRegs [(0xF, 1)]) 0x73FF (fun t => (t.reg 3, t.reg 0xF)) = some (0xFF, 1) := by
  decide

/-- A6. -/
theorem test_addImm_wraps : afterStep (withRegs [(0xF, 0xFF)]) 0x7F02 (fun t => (t.reg 0xF, t.pc)) =
    some (1, 0x0202) := by decide

/-- A7. -/
theorem test_ldReg : afterStep (withRegs [(1, 1), (2, 0x5A)]) 0x8120 (fun t => (t.reg 1, t.reg 2)) =
    some (0x5A, 0x5A) := by decide

/-- A8. -/
theorem test_orReg : afterStep (withRegs [(1, 0xF0), (2, 0x0F), (0xF, 1)]) 0x8121
    (fun t => (t.reg 1, t.reg 0xF)) = some (0xFF, 1) := by decide

/-- A9. -/
theorem test_andReg : afterStep (withRegs [(1, 0xF3), (2, 0x3C), (0xF, 1)]) 0x8122
    (fun t => (t.reg 1, t.reg 0xF)) = some (0x30, 1) := by decide

/-- A10. -/
theorem test_xorReg : afterStep (withRegs [(1, 0xF3), (2, 0x3C), (0xF, 1)]) 0x8123
    (fun t => (t.reg 1, t.reg 0xF)) = some (0xCF, 1) := by decide

/-- A15: a sum of exactly 255 is no carry. -/
theorem test_addReg_255 : afterStep (withRegs [(0, 0x7F), (1, 0x80), (0xF, 1)]) 0x8014
    (fun t => (t.reg 0, t.reg 0xF)) = some (0xFF, 0) := by decide

/-- A19: the addend is the old VF. -/
theorem test_addReg_vf_operand : afterStep (withRegs [(1, 0xFF), (0xF, 1)]) 0x81F4
    (fun t => (t.reg 1, t.reg 0xF)) = some (0, 1) := by decide

/-- A24. -/
theorem test_sub_borrow : afterStep (withRegs [(0, 1), (0xF, 1)]) 0x8105 (fun t => (t.reg 1, t.reg 0xF)) =
    some (0xFF, 0) := by decide

/-- A25: the flag replaces the difference. -/
theorem test_sub_into_vf : afterStep (withRegs [(0xF, 5), (1, 3)]) 0x8F15 (fun t => t.reg 0xF) = some 1 := by
  decide

/-- A28: Y is ignored. -/
theorem test_shr : afterStep (withRegs [(3, 5), (0xA, 0xFF)]) 0x83A6 (fun t => (t.reg 3, t.reg 0xA, t.reg 0xF)) =
    some (2, 0xFF, 1) := by decide

/-- A30. -/
theorem test_shr_even : afterStep (withRegs [(3, 0xFE), (0xF, 1)]) 0x8306 (fun t => (t.reg 3, t.reg 0xF)) =
    some (0x7F, 0) := by decide

/-- A35. -/
theorem test_subn_borrow : afterStep (withRegs [(1, 0x0A), (2, 4)]) 0x8127 (fun t => (t.reg 1, t.reg 0xF)) =
    some (0xFA, 0) := by decide

/-- A36: equal operands give no borrow. -/
theorem test_subn_equal : afterStep (withRegs [(1, 0x0A), (2, 0x0A)]) 0x8127 (fun t => (t.reg 1, t.reg 0xF)) =
    some (0, 1) := by decide

/-- A40. -/
theorem test_shl : afterStep (withRegs [(3, 0x7F), (0xF, 1)]) 0x830E (fun t => (t.reg 3, t.reg 0xF)) =
    some (0xFE, 0) := by decide

/-- A42. -/
theorem test_shl_into_vf : afterStep (withRegs [(0xF, 0xC0)]) 0x8F0E (fun t => t.reg 0xF) = some 1 := by
  decide

/-- A44, the host's next random byte being A7. -/
theorem test_rnd : afterStep { State.reset with script := [0xA7, 0x11] } 0xC30F (fun t => (t.reg 3, t.script)) =
    some (7, [0x11]) := by decide

/-- M2. -/
theorem test_ldI : afterStep State.reset 0xAFFF (fun t => (t.i, t.pc)) = some (0x0FFF, 0x0202) := by decide

/-- M6. -/
theorem test_addI_wraps : afterStep { withRegs [(0, 0xFF)] with i := 0x0FFF } 0xF01E (fun t => (t.i, t.reg 0xF)) =
    some (0x00FE, 1) := by decide

/-- M8: the addend is the old VF. -/
theorem test_addI_vf : afterStep { withRegs [(0xF, 0x10)] with i := 0x0100 } 0xFF1E (fun t => (t.i, t.reg 0xF)) =
    some (0x0110, 0) := by decide

/-- M10. -/
theorem test_ldF : afterStep { withRegs [(0, 0x0F)] with i := 0x0777 } 0xF029 (·.i) = some 0x004B := by
  decide

/-- M12. -/
theorem test_ldF_out_of_range : afterStep { withRegs [(0, 0x10)] with i := 0x0777 } 0xF029
    (fun t => (t.i, t.pc, t.fault)) = some (0x0777, 0x0200, some (.operandOutOfRange 0xF029)) := by decide

/-- M17. -/
theorem test_ldB : afterStep { withRegs [(0, 0x7B)] with i := 0x0FFD } 0xF033
    (fun t => (t.mem.readBytes 0xFFD 3, t.i, t.pc)) = some ([1, 2, 3], 0x0FFD, 0x0202) := by decide

/-- M18. -/
theorem test_ldB_out_of_bounds : afterStep { withRegs [(0, 0x7B)] with i := 0x0FFE } 0xF033
    (fun t => (t.mem.readBytes 0xFFE 2, t.pc, t.fault)) = some ([0, 0], 0x0200, some .memoryOutOfBounds) := by
  decide

/-- M19. -/
theorem test_stRegs : afterStep { withRegs [(0, 0x11), (1, 0x22), (2, 0x33), (3, 0x44)] with i := 0x0400 } 0xF255
    (fun t => (t.mem.readBytes 0x400 4, t.i)) = some ([0x11, 0x22, 0x33, 0], 0x0400) := by decide

/-- M21: not even the byte in range is written. -/
theorem test_stRegs_out_of_bounds : afterStep { withRegs [(0, 0xAB), (1, 0xCD)] with i := 0x0FFF } 0xF155
    (fun t => (t.mem.read 0xFFF, t.pc, t.fault)) = some (0, 0x0200, some .memoryOutOfBounds) := by decide

/-- M24. -/
theorem test_ldRegs : afterStep { withRegs [(3, 0x77)] with
      i := 0x0400, mem := Memory.writeBytes [] 0x400 [0xAA, 0xBB, 0xCC, 0xDD] } 0xF265
    (fun t => (t.reg 0, t.reg 1, t.reg 2, t.reg 3, t.i)) = some (0xAA, 0xBB, 0xCC, 0x77, 0x0400) := by decide

/-- M26: the last byte of the font and the fill after it. -/
theorem test_ldRegs_font : afterStep { State.reset with i := 0x0041 } 0xFF65 (fun t => (t.reg 0xE, t.reg 0xF)) =
    some (0x80, 0) := by decide

/-- D12. -/
theorem test_cls : afterStep { withRegs [(0xF, 1)] with fb := pixels [(0, 0), (63, 31)] } 0x00E0
    (fun t => (t.fb, t.drawFlag, t.reg 0xF, t.pc)) = some (blankScreen, true, 1, 0x0202) := by decide

/-- D6: a sprite wraps at both edges. -/
theorem test_drw_wraps : afterStep { withRegs [(0, 0x3F), (1, 0x1F)] with
      i := 0x0300, mem := Memory.writeBytes [] 0x300 [0xC0, 0xC0] } 0xD012
    (fun t => (t.fb, t.reg 0xF, t.drawFlag)) =
      some (pixels [(63, 31), (0, 31), (63, 0), (0, 0)], 0, true) := by decide

/-- D14: one pixel cleared, one set, one not targeted. -/
theorem test_drw_collision : afterStep { State.reset with
      i := 0x0300, mem := Memory.writeBytes [] 0x300 [0xA0], fb := pixels [(0, 0), (1, 0)] } 0xD011
    (fun t => (t.fb, t.reg 0xF)) = some (pixels [(1, 0), (2, 0)], 1) := by decide

/-- K1. -/
theorem test_skp : afterStep { withRegs [(4, 0x0A)] with key := 0x0400 } 0xE49E (·.pc) = some 0x0204 := by
  decide

/-- K5. -/
theorem test_skp_out_of_range : afterStep { withRegs [(4, 0x10)] with key := 0xFFFF } 0xE49E
    (fun t => (t.pc, t.fault)) = some (0x0200, some (.operandOutOfRange 0xE49E)) := by decide

/-- K3. -/
theorem test_sknp : afterStep (withRegs [(4, 0x0A)]) 0xE4A1 (·.pc) = some 0x0204 := by decide

/-- K4. -/
theorem test_sknp_not : afterStep { withRegs [(4, 0x0A)] with key := 0x0400 } 0xE4A1 (·.pc) = some 0x0202 := by
  decide

/-- K8: with no key pressed nothing changes. -/
theorem test_ldVxK_waits : exec (.ldVxK 5) (withRegs [(5, 0x33)]) = .next (withRegs [(5, 0x33)]) := by
  rw [exec, execLdVxK, (pickedKey_eq_none_iff _).2 (by decide)]

/-- K9. -/
theorem test_ldVxK : (nextOf (exec (.ldVxK 5) { withRegs [(5, 0x33)] with key := 0x0080 })).map
    (fun t => (t.reg 5, t.pc)) = some (7, 0x0202) := by
  rw [exec, execLdVxK, pickedKey_of_single (k := 7) (by decide)]
  decide

/-- K12. -/
theorem test_ldVxDt : afterStep { State.reset with dt := 0x0E } 0xF207 (fun t => (t.reg 2, t.dt)) =
    some (0x0E, 0x0E) := by decide

/-- K13. -/
theorem test_ldDtVx : afterStep { withRegs [(1, 0x0F)] with dt := 3 } 0xF115 (fun t => (t.dt, t.reg 1)) =
    some (0x0F, 0x0F) := by decide

/-- K14. -/
theorem test_ldStVx : afterStep (withRegs [(1, 3)]) 0xF118 (fun t => (t.st, t.dt)) = some (3, 0) := by decide

/-- F1. -/
theorem test_fetch_out_of_bounds : (nextOf (step { State.reset with pc := 0x0FFF })).map
    (fun t => (t.pc, t.fault)) = some (0x0FFF, some .memoryOutOfBounds) := by decide

/-- F3, H11: the first step from reset with nothing loaded. -/
theorem test_step_from_reset : nextOf (step State.reset) =
    some { State.reset with fault := some (.unknownInstruction 0x0000) } := by decide

/-! ## Host operations (95_test_vectors.md section 3) -/

/-- H2. -/
theorem test_tick : (({ State.reset with dt := 1, st := 0xFF } : State).tickTimers.dt,
    ({ State.reset with dt := 1, st := 0xFF } : State).tickTimers.st) = (0, 0xFE) := by decide

/-- H3: no wrap to FF. -/
theorem test_tick_zero : State.reset.tickTimers = State.reset := by decide

/-- H13: the opcode's second byte is the fill. -/
theorem test_reset_one_byte (s : State) : (s.resetImage [0xAB]).mem.read 0x200 = 0xAB ∧
    (s.resetImage [0xAB]).mem.read 0x201 = 0 := by
  constructor <;> rw [State.resetImage, State.read_resetWith _ _ _ _ (by decide)] <;> decide

/-! ## Witnesses

Each theorem shows values that meet all hypotheses of the obligation it is named after, one for each clause, at the
boundaries of its range. -/

/-- A state whose next fetch reads a word. -/
def at200 (w : Nat) : State := State.reset.withFetchWord 16 w

/-- A sprite of the greatest height, 15 rows (44_display.md R212). -/
def tallSprite : List Byte := List.replicate 15 0xFF

theorem witness_DecodeInvertsEncode : (Instr.drw 0xF 0xF 0xF).WellFormed = true ∧
    (Instr.jp 0xFFF).WellFormed = true ∧ (Instr.ldImm 0xF 0xFF).WellFormed = true ∧
    Instr.cls.WellFormed = true := by decide

theorem witness_EncodeInvertsDecode : decodeWord 0xDFFF = some (.drw 0xF 0xF 0xF) := by decide

theorem witness_DecoderIsTheOpcodeTable : decodeWord 0x0000 = none ∧ decodeWord 0x8FFE = some (.shl 0xF 0xF) ∧
    (⟨"SHL", 0xF00F, 0x800E⟩ : OpcodeRow) ∈ opcodeRows := by decide

theorem witness_FetchIsBigEndianOrOutOfBounds :
    ({ State.reset with pc := 0x0FFE } : State).pc.toNat + 1 < 4096 ∧
    (({ State.reset with pc := 0x0FFF } : State).fault = none ∧
      4096 ≤ ({ State.reset with pc := 0x0FFF } : State).pc.toNat + 1) := by decide

theorem witness_UnknownOpcodeIsLatched : ReadyToExecute State.reset 0x0000 ∧ decodeWord 0x0000 = none :=
  ⟨⟨by decide, by decide, by decide⟩, by decide⟩

theorem witness_StepRunsTheDecodedInstruction :
    (at200 0xD015).fault = none ∧ (at200 0xD015).pc.toNat + 1 < 4096 ∧
    decode [(at200 0xD015).mem.read (at200 0xD015).pc.toNat, (at200 0xD015).mem.read ((at200 0xD015).pc.toNat + 1)] =
      .ok (.drw 0 1 5, []) ∧
    (Instr.drw 0 1 5).WellFormed = true := by decide

theorem witness_LatchedStepChangesNothing :
    ({ State.reset with fault := some .stackOverflow } : State).fault = some .stackOverflow := rfl

/-- StackOverflow and StackUnderflow. -/
theorem witness_FatalConditionsHaveTheirCauses_stack :
    (({ State.reset with sp := 16 } : State).fault = none ∧
      exec (.call 0x300) { State.reset with sp := 16 } =
        .next { State.reset with sp := 16, fault := some .stackOverflow }) ∧
    (State.reset.fault = none ∧ exec .ret State.reset = .next { State.reset with fault := some .stackUnderflow }) :=
  ⟨⟨rfl, rfl⟩, rfl, rfl⟩

/-- MemoryOutOfBounds, at the first byte that does not exist. -/
theorem witness_FatalConditionsHaveTheirCauses_memory :
    (nextOf (exec (.drw 0 1 2) { State.reset with i := 0x0FFF })).map (·.fault) = some (some .memoryOutOfBounds) ∧
    (nextOf (exec (.ldB 0) { State.reset with i := 0x0FFE })).map (·.fault) = some (some .memoryOutOfBounds) ∧
    (nextOf (exec (.stRegs 1) { State.reset with i := 0x0FFF })).map (·.fault) = some (some .memoryOutOfBounds) ∧
    (nextOf (exec (.ldRegs 1) { State.reset with i := 0x0FFF })).map (·.fault) = some (some .memoryOutOfBounds) := by
  decide

/-- OperandOutOfRange. -/
theorem witness_FatalConditionsHaveTheirCauses_operand :
    (nextOf (exec (.skp 4) (withRegs [(4, 0x10)]))).map (·.fault) = some (some (.operandOutOfRange 0xE49E)) ∧
    (nextOf (exec (.sknp 4) (withRegs [(4, 0x10)]))).map (·.fault) = some (some (.operandOutOfRange 0xE4A1)) ∧
    (nextOf (exec (.ldF 4) (withRegs [(4, 0x10)]))).map (·.fault) = some (some (.operandOutOfRange 0xF429)) := by
  decide

theorem witness_FaultingStepChangesOnlyTheLatch : (at200 0x00EE).fault = none ∧
    nextOf (step (at200 0x00EE)) = some { at200 0x00EE with fault := some .stackUnderflow } := by decide

/-- A skip at the greatest `pc` from which a step fetches, with `i` and a stack slot at their greatest values. -/
def edgeState : State :=
  { State.reset with
    pc := 0x0FFE, i := 0x0FFF, stack := stackWith 0 0x1000, mem := Memory.writeBytes [] 0xFFE [0x30, 0x00] }

theorem witness_StepKeepsTheInvariant_before : BlockInvariant edgeState := by
  unfold BlockInvariant
  decide

theorem witness_StepKeepsTheInvariant_step : nextOf (step edgeState) = some { edgeState with pc := 0x1002 } := by
  decide

theorem witness_HostOperationsKeepTheInvariant : HostOp.tickTimers ≠ .step ∧ BlockInvariant State.reset ∧
    nextOf (HostOp.apply .tickTimers State.reset) = some State.reset := by
  unfold BlockInvariant
  decide

/-- `i`, `sp` and the stack each changed by a writer of theirs. -/
theorem witness_ElementsChangeOnlyByTheirWriters_index :
    (nextOf (exec (.ldI 0x300) State.reset)).map (·.i) = some 0x300 ∧
    (nextOf (exec (.addI 0) (withRegs [(0, 2)]))).map (·.i) = some 2 ∧
    (nextOf (exec (.ldF 0) (withRegs [(0, 2)]))).map (·.i) = some 10 ∧ State.reset.i = 0 ∧
    (nextOf (exec (.call 0x300) State.reset)).map (fun t => (t.sp, t.stack[0])) = some (1, 0x202) ∧
    (nextOf (exec .ret { State.reset with sp := 16 })).map (·.sp) = some 15 ∧
    State.reset.sp = 0 ∧ State.reset.stack[0] = 0 := by decide

/-- Memory, the framebuffer, the draw flag and the timers each changed by a writer of theirs. -/
theorem witness_ElementsChangeOnlyByTheirWriters_memory :
    (nextOf (exec (.ldB 0) { withRegs [(0, 100)] with i := 0x300 })).map (·.mem.read 0x300) = some 1 ∧
    (nextOf (exec (.stRegs 0) { withRegs [(0, 100)] with i := 0x300 })).map (·.mem.read 0x300) = some 100 ∧
    State.reset.mem.read 0x300 = 0 ∧
    (nextOf (exec .cls { State.reset with fb := pixels [(0, 0)] })).map (fun t => (t.fb, t.drawFlag)) =
      some (blankScreen, true) ∧
    (nextOf (exec (.drw 0 0 1) State.reset)).map (fun t => (pixel t.fb 0 0, t.drawFlag)) = some (true, true) ∧
    pixel State.reset.fb 0 0 = false ∧ State.reset.drawFlag = false ∧
    (nextOf (exec (.ldDtVx 0) (withRegs [(0, 3)]))).map (·.dt) = some 3 ∧
    (nextOf (exec (.ldStVx 0) (withRegs [(0, 3)]))).map (·.st) = some 3 ∧
    State.reset.dt = 0 ∧ State.reset.st = 0 := by decide

/-- A latched fault. -/
theorem witness_ElementsChangeOnlyByTheirWriters_latch :
    ({ State.reset with fault := some .stackOverflow } : State).fault ≠ none ∧
    exec (.jp 0x300) { State.reset with fault := some .stackOverflow } =
      .next { State.reset with fault := some .stackOverflow, pc := 0x300 } := ⟨by decide, rfl⟩

/-- A destination, VF by a flag writer, and the last register of a block. -/
theorem witness_RegistersChangeOnlyByTheirWriters :
    (nextOf (exec (.ldImm 3 7) State.reset)).map (·.reg 3) = some 7 ∧
    (nextOf (exec (.shr 3 0) (withRegs [(3, 1)]))).map (·.reg 0xF) = some 1 ∧
    (nextOf (exec (.drw 0 0 1) { State.reset with fb := pixels [(0, 0)] })).map (·.reg 0xF) = some 1 ∧
    (nextOf (exec (.ldRegs 2) State.reset)).map (·.reg 2) = some 0x90 ∧
    State.reset.reg 3 = 0 ∧ State.reset.reg 0xF = 0 ∧ State.reset.reg 2 = 0 := by decide

theorem witness_InputsMatterOnlyToTheirReaders :
    (∀ x nn, Instr.ldI 0x300 ≠ .skp x ∧ Instr.ldI 0x300 ≠ .sknp x ∧ Instr.ldI 0x300 ≠ .ldVxK x ∧
      Instr.ldI 0x300 ≠ .rnd x nn) ∧
    exec (.ldI 0x300) State.reset = .next { State.reset with i := 0x300, pc := 0x202 } :=
  ⟨fun _ _ => ⟨nofun, nofun, nofun, nofun⟩, rfl⟩

theorem witness_ResetLeavesTheStatedValues : ([] : List Byte).length ≤ 3584 ∧
    (List.replicate 3584 (0xFF : Byte)).length ≤ 3584 := by
  rw [List.length_replicate]
  decide

/-- The longest image, with an address in the font, between, in the image and at its end; the empty image leaves the
last clause its addresses. -/
theorem witness_ResetMemoryIsFontImageAndFill :
    font.length = 80 ∧ (List.replicate 3584 (0xFF : Byte)).length ≤ 3584 ∧ ([] : List Byte).length ≤ 3584 ∧
    (0x4F < 4096 ∧ 0x4F < 0x50) ∧ (0x1FF < 4096 ∧ ¬0x1FF < 0x50 ∧ ¬0x200 ≤ 0x1FF) ∧
    (0xFFF < 4096 ∧ 0x200 ≤ 0xFFF ∧ 0xFFF < 0x200 + (List.replicate 3584 (0xFF : Byte)).length) ∧
    ¬0x200 < 0x200 + ([] : List Byte).length := by
  rw [List.length_replicate]
  decide

theorem witness_OversizedImageIsRefused : 3584 < (List.replicate 3585 (0xFF : Byte)).length ∧ 4095 < 4096 := by
  rw [List.length_replicate]
  decide

/-- A timer at 0, at 1 and at 255. -/
theorem witness_TickDecrementsNonzeroTimers : ¬0 < State.reset.dt.toNat ∧
    0 < ({ State.reset with dt := 1, st := 255 } : State).dt.toNat ∧
    0 < ({ State.reset with dt := 1, st := 255 } : State).st.toNat := by decide

theorem witness_DelayTimerRisesOnlyByFX15 :
    nextOf (HostOp.apply .step ((at200 0xF115).setReg 1 0x0F)) =
      some { (at200 0xF115).setReg 1 0x0F with dt := 0x0F, pc := 0x202 } ∧
    ((at200 0xF115).setReg 1 0x0F).dt.toNat < (0x0F : Byte).toNat := by decide

theorem witness_CanonicalMemoriesAreEqualData :
    Memory.wf [(0x200, 1), (0xFFF, 2)] ∧ Memory.wf (Memory.writeBytes (Memory.writeBytes [] 0xFFF [2]) 0x200 [1]) ∧
    ∀ a, Memory.read [(0x200, 1), (0xFFF, 2)] a =
      Memory.read (Memory.writeBytes (Memory.writeBytes [] 0xFFF [2]) 0x200 [1]) a := by
  have h : Memory.writeBytes (Memory.writeBytes [] 0xFFF [2]) 0x200 [1] = [(0x200, 1), (0xFFF, 2)] := by
    decide
  rw [h]
  exact ⟨by decide, by decide, fun _ => rfl⟩

/-- At the last `pc` whose bytes exist, and an address on each side of the placed word. -/
theorem witness_PlacedWordRunsNext :
    let s : State := { State.reset with pc := 0x0FFE }
    s.pc.toNat + 1 < 4096 ∧
    0xFFD ≠ (s.withFetchWord 16 (encode (.jp 0x300)).toNat).pc.toNat ∧
    0xFFD ≠ (s.withFetchWord 16 (encode (.jp 0x300)).toNat).pc.toNat + 1 ∧
    0x1000 ≠ (s.withFetchWord 16 (encode (.jp 0x300)).toNat).pc.toNat + 1 := by decide

/-- T5. -/
theorem witness_EndedProgramStaysPut : Ended (at200 0x1200) :=
  ⟨0x200, ⟨by decide, by decide, by decide⟩, by decide⟩

theorem witness_ReturnPopsTheStack : State.reset.sp.val = 0 ∧ ({ State.reset with sp := 1 } : State).sp.val ≠ 0 ∧
    ({ State.reset with sp := 16 } : State).sp.val ≠ 0 := by decide

theorem witness_CallPushesTheReturnAddress : ({ State.reset with sp := 16 } : State).sp.val = 16 ∧
    ({ State.reset with sp := 15 } : State).sp.val ≠ 16 ∧ State.reset.sp.val ≠ 16 ∧
    (14 < 16 ∧ 14 ≠ ({ State.reset with sp := 15 } : State).sp.val) := by decide

/-- The state right after the call is such a later state. -/
theorem witness_CallThenReturnComesBack : State.reset.sp.val ≠ 16 ∧
    (nextOf (exec (.call 0x300) State.reset)).map (fun t => (t.sp, t.stack)) =
      some (({ State.reset with sp := 1, stack := stackWith 0 0x202 } : State).sp,
        ({ State.reset with sp := 1, stack := stackWith 0 0x202 } : State).stack) := by decide

/-- Both cases of each condition. -/
theorem witness_RegisterSkipsTestEquality :
    ((withRegs [(2, 5)]).reg 2).toNat = (5 : Byte).toNat ∧ ¬((withRegs [(2, 5)]).reg 2).toNat = (6 : Byte).toNat ∧
    ((withRegs [(1, 7), (2, 7)]).reg 1).toNat = ((withRegs [(1, 7), (2, 7)]).reg 2).toNat ∧
    ¬((withRegs [(1, 7), (2, 8)]).reg 1).toNat = ((withRegs [(1, 7), (2, 8)]).reg 2).toNat := by decide

/-- Each flag in both cases: sums 255 and 256, a difference of 0 and a borrow. -/
theorem witness_AddAndSubtractSetVF :
    (255 < ((withRegs [(0, 0xFF), (1, 1)]).reg 0).toNat + ((withRegs [(0, 0xFF), (1, 1)]).reg 1).toNat) ∧
    ¬(255 < ((withRegs [(0, 0x7F), (1, 0x80)]).reg 0).toNat + ((withRegs [(0, 0x7F), (1, 0x80)]).reg 1).toNat) ∧
    ((withRegs [(0, 3), (1, 3)]).reg 1).toNat ≤ ((withRegs [(0, 3), (1, 3)]).reg 0).toNat ∧
    ¬((withRegs [(1, 1)]).reg 1).toNat ≤ ((withRegs [(1, 1)]).reg 0).toNat := by decide

/-- With a byte supplied, and with none. -/
theorem witness_RandomMasksAFreshByte : ({ State.reset with script := [0xA7] } : State).script = 0xA7 :: [] ∧
    State.reset.script = [] ∧ (0xF#4 : RegIx) ≠ 3 := by decide

/-- The greatest sum without a carry and the least with one. -/
theorem witness_AddToIndexRegister :
    ¬0x0FFF < ({ withRegs [(0, 1)] with i := 0x0FFE } : State).i.toNat + ((withRegs [(0, 1)]).reg 0).toNat ∧
    0x0FFF < ({ withRegs [(0, 1)] with i := 0x0FFF } : State).i.toNat + ((withRegs [(0, 1)]).reg 0).toNat := by decide

theorem witness_GlyphAddressIsFiveTimesTheDigit : ((withRegs [(0, 0x0F)]).reg 0).toNat ≤ 0x0F ∧
    0x0F < ((withRegs [(0, 0x10)]).reg 0).toNat := by decide

theorem witness_StoreDecimalDigits : ({ State.reset with i := 4093 } : State).i.toNat + 2 < 4096 ∧
    4096 ≤ ({ State.reset with i := 4094 } : State).i.toNat + 2 ∧
    (4092 < ({ State.reset with i := 4093 } : State).i.toNat ∨
      ({ State.reset with i := 4093 } : State).i.toNat + 2 < 4092) := by decide

theorem witness_StoreRegisterBlock :
    ({ State.reset with i := 4080 } : State).i.toNat + (0xF#4).toNat < 4096 ∧
    4096 ≤ ({ State.reset with i := 4081 } : State).i.toNat + (0xF#4).toNat ∧ (0xF#4).toNat ≤ (0xF#4).toNat ∧
    (4079 < ({ State.reset with i := 4080 } : State).i.toNat ∨
      ({ State.reset with i := 4080 } : State).i.toNat + (0xF#4).toNat < 4079) := by decide

theorem witness_LoadRegisterBlock :
    ({ State.reset with i := 4095 } : State).i.toNat + (0x0#4).toNat < 4096 ∧
    4096 ≤ ({ State.reset with i := 4095 } : State).i.toNat + (0x1#4).toNat := by decide

/-- The state right after the store is such a later state. -/
theorem witness_StoredBlockLoadsBack :
    ({ withRegs [(0, 0xAB)] with i := 4080 } : State).i.toNat + (0xF#4).toNat < 4096 ∧
    (nextOf (exec (.stRegs 0xF) { withRegs [(0, 0xAB)] with i := 4080 })).map (fun t => (t.i, t.mem)) =
      some (4080, [(4080, 0xAB)]) := by decide

/-- A sprite of 15 rows, a pixel under one of its bits at the wrap of both edges, and a pixel under none. -/
theorem witness_DrawFlipsTheSpritesPixels : tallSprite.length ≤ 15 ∧ SpriteCovers 63 31 tallSprite 6 13 ∧
    ¬SpriteCovers 63 31 tallSprite 7 13 := by
  refine ⟨by decide, ⟨14, 7, by decide, by decide, by decide, by decide, by decide⟩, ?_⟩
  rintro ⟨r, b, hr, hb, -, h, -⟩
  omega

/-- A collision is seen, and none is. -/
theorem witness_CollisionIsASetPixelCleared : tallSprite.length ≤ 15 ∧
    (draw (pixels [(0, 0)]) 63 31 [0xFF, 0xFF]).2 = true ∧ (draw blankScreen 63 31 [0xFF, 0xFF]).2 = false := by
  decide

theorem witness_DrawingTwiceRestoresTheScreen : [(0x00 : Byte), 0x80].length ≤ 15 ∧
    (draw (draw blankScreen 63 31 [0x00, 0x80]).1 63 31 [0x00, 0x80]).2 = true ∧
    (draw blankScreen 63 31 [0x00, 0x80]).2 = false ∧ (∃ row ∈ [(0x00 : Byte), 0x80], row ≠ 0) ∧
    pixel blankScreen 63 0 = false := by decide

theorem witness_DrawingTwiceRestoresTheScreen_covered : SpriteCovers 63 31 [0x00, 0x80] 63 0 :=
  ⟨1, 0, by decide, by decide, by decide, by decide, by decide⟩

/-- Log entry 22: a sprite whose one bit that is 1 landed on a set pixel collides the first time and not the second. -/
theorem test_drawing_twice_over_a_set_pixel : (draw (pixels [(0, 0)]) 0 0 [0x80]).2 = true ∧
    (draw (draw (pixels [(0, 0)]) 0 0 [0x80]).1 0 0 [0x80]).2 = false := by decide

/-- N = 0 at any `i`, the last byte at 4095, and the last byte at 4096. -/
theorem witness_DrawInstructionDrawsFromMemory : (0#4 : Nibble).toNat = 0 ∧
    ({ State.reset with i := 4081 } : State).i.toNat + (0xF#4).toNat - 1 < 4096 ∧
    (1 ≤ (0xF#4).toNat ∧ 4096 ≤ ({ State.reset with i := 4082 } : State).i.toNat + (0xF#4).toNat - 1) ∧
    14 < (0xF#4).toNat := by decide

/-- The last digit, pressed and not, and the first operand above it. -/
theorem witness_KeySkipsReadTheLatch : ((withRegs [(4, 0x0F)]).reg 4).toNat ≤ 0x0F ∧
    0x0F < ((withRegs [(4, 0x10)]).reg 4).toNat ∧
    ({ withRegs [(4, 0x0F)] with key := 0x8000 } : State).key.getLsbD ((withRegs [(4, 0x0F)]).reg 4).toNat = true ∧
    (withRegs [(4, 0x0F)]).key.getLsbD ((withRegs [(4, 0x0F)]).reg 4).toNat = false := by decide

theorem witness_WaitForKeyStuttersOrTakesAKey : State.reset.key = 0 ∧
    ({ State.reset with key := 0x8000 } : State).key ≠ 0 := by decide

/-- A legal `i` at its greatest with and without a carry, and the last and the first block past the end. -/
theorem witness_AlternativePoliciesAreTheSpecs : ({ State.reset with i := 0x0FFF } : State).i.toNat ≤ 0x0FFF ∧
    0x0FFF < ({ withRegs [(0, 1)] with i := 0x0FFF } : State).i.toNat + ((withRegs [(0, 1)]).reg 0).toNat ∧
    ¬0x0FFF < ({ State.reset with i := 0x0FFF } : State).i.toNat + (State.reset.reg 0).toNat ∧
    ({ State.reset with i := 4080 } : State).i.toNat + (0xF#4).toNat < 4096 ∧
    4096 ≤ ({ State.reset with i := 4081 } : State).i.toNat + (0xF#4).toNat ∧
    ((withRegs [(4, 0x1F)]).reg 4).toNat % 16 = 0xF := by decide

/-- A host's byte taken by CXNN, and the counter of draws advanced by it and by FX0A. -/
theorem witness_RandomSourceChangesOnlyByItsReaders :
    (nextOf (exec (.rnd 3 0x0F) { State.reset with script := [0xA7] })).map (fun t => (t.script, t.draws)) =
      some ([], 1) ∧
    (nextOf (exec (.ldVxK 5) { State.reset with key := 0x0080, script := [0xA7] })).map
      (fun t => (t.script, t.draws)) = some ([0xA7], 1) ∧ State.reset.draws = 0 := by
  refine ⟨by decide, ?_, rfl⟩
  rw [exec, execLdVxK, pickedKey_of_single (k := 7) (by decide)]
  decide

/-- The longest legal image and the shortest that is too long. -/
theorem witness_ResetClearsScreenTimersAndLatch : (List.replicate 3584 (0xFF : Byte)).length ≤ 3584 ∧
    3584 < (List.replicate 3585 (0xFF : Byte)).length ∧ 15 < 16 := by
  rw [List.length_replicate, List.length_replicate]
  decide

theorem witness_FaultLatchHasTheSpecsNumbers : State.reset.fault = none ∧
    ({ State.reset with fault := some (.unknownInstruction 0x0000) } : State).fault =
      some (.unknownInstruction 0x0000) ∧
    ({ State.reset with fault := some .stackOverflow } : State).fault = some .stackOverflow ∧
    ({ State.reset with fault := some .stackUnderflow } : State).fault = some .stackUnderflow ∧
    ({ State.reset with fault := some .memoryOutOfBounds } : State).fault = some .memoryOutOfBounds ∧
    ({ State.reset with fault := some (.operandOutOfRange 0xE49E) } : State).fault =
      some (.operandOutOfRange 0xE49E) ∧
    ({ State.reset with fault := some .programTooLarge } : State).fault = some .programTooLarge := by decide

/-- This machine's policies with UNKNOWN_POLICY = skip. -/
def skipPolicy : Config := { policy with unknown := .skip }

theorem witness_StepUnderAPolicyReportsToTheHost_unknown : ReadyToExecute State.reset 0x0000 ∧
    decodeWord 0x0000 = none ∧ skipPolicy.unknown = .skip ∧ policy.unknown = .fatal :=
  ⟨⟨by decide, by decide, by decide⟩, by decide, rfl, rfl⟩

theorem witness_StepUnderAPolicyReportsToTheHost_latched :
    ({ State.reset with fault := some .stackOverflow } : State).fault = some .stackOverflow := rfl

/-- An instruction that completes, and one that latches a fault. -/
theorem witness_StepUnderAPolicyReportsToTheHost_decoded :
    ReadyToExecute (at200 0x00E0) (encode .cls) ∧
    (nextOf (execUnder skipPolicy .cls (at200 0x00E0))).map (·.fault) = some none ∧
    ReadyToExecute (at200 0x00EE) (encode .ret) ∧
    (nextOf (execUnder skipPolicy .ret (at200 0x00EE))).map (·.fault) = some (some .stackUnderflow) :=
  ⟨⟨by decide, by decide, by decide⟩, by decide, ⟨by decide, by decide, by decide⟩, by decide⟩

theorem witness_StepUnderAPolicyReportsToTheHost_independent (x : RegIx) : Instr.ldB 3 ≠ .addI x ∧
    Instr.ldB 3 ≠ .ldF x ∧ Instr.ldB 3 ≠ .skp x ∧ Instr.ldB 3 ≠ .sknp x ∧ Instr.ldB 3 ≠ .stRegs x ∧
    Instr.ldB 3 ≠ .ldRegs x := ⟨nofun, nofun, nofun, nofun, nofun, nofun⟩

/-- 30_encoding.md R98: the unknown opcode 0x0000 is skipped and reported, then again at the next address. -/
theorem test_skip_policy_reports : (runOps skipPolicy [.step, .step] State.reset).1 =
    [.skipped 0x0000, .skipped 0x0000] ∧
    (nextOf (runOps skipPolicy [.step, .step] State.reset).2).map (fun t => (t.pc, t.fault)) =
      some (0x0204, none) := by decide

/-- H8, and 40_step_cycle.md R121: the latched condition is reported again. -/
theorem test_latched_step_reports_again : (runOps policy [.step, .step] (at200 0x00EE)).1 =
    [.fatal .stackUnderflow, .fatal .stackUnderflow] := by decide

end Sys2Proof.Tests
end

section
/-! PROOF. Reset: what the elements of `State.reset` hold, and the obligation about its stated values (10_state.md R38). -/

namespace Sys2Proof.Machine

@[simp] theorem State.reset_reg (k : RegIx) : State.reset.reg k = 0 := Vector.getElem_replicate k.isLt
@[simp] theorem State.reset_i : State.reset.i = 0 := rfl
@[simp] theorem State.reset_sp : State.reset.sp = 0 := rfl
@[simp] theorem State.reset_pc : State.reset.pc = 0x0200 := rfl

/-- Settles O20: the reset operation leaves `v`, `i`, `sp` and `pc` as `State.reset` has them, whatever the state, the
FONT, the fill and the image; the bound on the image is not needed. -/
theorem resetLeavesTheStatedValues : Obligations.ResetLeavesTheStatedValues := by
  unfold Obligations.ResetLeavesTheStatedValues
  constructor
  · exact fun k => ⟨State.reset_reg k, State.reset_i, State.reset_sp, State.reset_pc⟩
  · intro s fontBytes fill image _
    refine ⟨fun k => ?_, ?_, ?_, ?_⟩
    · rw [State.resetWith_reg, State.reset_reg]
    · rw [State.resetWith_i, State.reset_i]
    · rw [State.resetWith_sp, State.reset_sp]
    · rw [State.resetWith_pc, State.reset_pc]

end Sys2Proof.Machine
end

section
/-! PROOF. The decoder and the encoder are inverse to each other, the rows of the opcode table are the words its
instructions encode to, and the obligations about the table (spec 30_encoding.md R95) and the fields (R91). -/

namespace Sys2Proof

/-- Settles O5, one law of Laws/Decode.lean per field. -/
theorem fieldsAreNibblesOfTheOpcode : Obligations.FieldsAreNibblesOfTheOpcode := fun op =>
  ⟨toNat_opField op, toNat_xField op, toNat_yField op, toNat_nField op, toNat_nnField op, toNat_nnnField op⟩

/-! ### A word with known fields is in its format -/

section Formats

variable {op : Word} {o n : Nibble} {nn : Byte}

theorem formatA_of_opField (ho : opField op = o) : formatA o (nnnField op) = op :=
  ho ▸ formatA_fields op

theorem formatXI_of_opField (ho : opField op = o) : formatXI o (xField op) (nnField op) = op :=
  ho ▸ formatXI_fields op

theorem formatXK_of_fields (ho : opField op = o) (hnn : nnField op = nn) : formatXI o (xField op) nn = op :=
  hnn ▸ formatXI_of_opField ho

theorem formatXYN_of_opField (ho : opField op = o) : formatXY o (xField op) (yField op) (nField op) = op :=
  ho ▸ formatXY_fields op

theorem formatXY_of_fields (ho : opField op = o) (hn : nField op = n) : formatXY o (xField op) (yField op) n = op :=
  hn ▸ formatXYN_of_opField ho

/-! ### What a mask of the opcode table leaves of a word fixes its fields -/

theorem opField_of_mask (h : op &&& 0xF000 = formatA o 0) : opField op = o := by
  rw [← formatA_fields op, Laws.Pattern.formatA_fixed] at h
  simpa using congrArg opField h

theorem fields_of_maskXK (h : op &&& 0xF0FF = formatXI o 0 nn) : opField op = o ∧ nnField op = nn := by
  rw [← formatXI_fields op, Laws.Pattern.formatXK_fixed] at h
  exact ⟨by simpa using congrArg opField h, by simpa using congrArg nnField h⟩

theorem fields_of_maskXY (h : op &&& 0xF00F = formatXY o 0 0 n) : opField op = o ∧ nField op = n := by
  rw [← formatXY_fields op, Laws.Pattern.formatXY_fixed] at h
  exact ⟨by simpa using congrArg opField h, by simpa using congrArg nField h⟩

theorem formatZ_of_mask {p : Word} (h : op &&& 0xFFFF = p) : formatZ p = op :=
  h.symm.trans (BitVec.and_allOnes (x := op))

theorem formatA_of_mask (h : op &&& 0xF000 = formatA o 0) : formatA o (nnnField op) = op :=
  formatA_of_opField (opField_of_mask h)

theorem formatXI_of_mask (h : op &&& 0xF000 = formatA o 0) : formatXI o (xField op) (nnField op) = op :=
  formatXI_of_opField (opField_of_mask h)

theorem formatXYN_of_mask (h : op &&& 0xF000 = formatA o 0) : formatXY o (xField op) (yField op) (nField op) = op :=
  formatXYN_of_opField (opField_of_mask h)

theorem formatXK_of_mask (h : op &&& 0xF0FF = formatXI o 0 nn) : formatXI o (xField op) nn = op :=
  formatXK_of_fields (fields_of_maskXK h).1 (fields_of_maskXK h).2

theorem formatXY_of_mask (h : op &&& 0xF00F = formatXY o 0 0 n) : formatXY o (xField op) (yField op) n = op :=
  formatXY_of_fields (fields_of_maskXY h).1 (fields_of_maskXY h).2

end Formats

/-! ### Decoding an encoded instruction -/

@[simp] theorem decodeWord_formatXY_8 (x y : RegIx) (n : Nibble) :
    decodeWord (formatXY 0x8 x y n) = decodeGroup8 x y n := by
  simp [decodeWord]

@[simp] theorem decodeWord_formatXI_E (x : RegIx) (nn : Byte) :
    decodeWord (formatXI 0xE x nn) = decodeGroupE x nn := by
  simp [decodeWord]

@[simp] theorem decodeWord_formatXI_F (x : RegIx) (nn : Byte) :
    decodeWord (formatXI 0xF x nn) = decodeGroupF x nn := by
  simp [decodeWord]

/-- The decoder gives back every encoded instruction. -/
@[simp] theorem decodeWord_encode (i : Instr) : decodeWord (encode i) = some i := by
  cases i with
  | cls | ret => rfl
  | ldReg | orReg | andReg | xorReg | addReg | sub | shr | subn | shl => exact decodeWord_formatXY_8 ..
  | skp | sknp => exact decodeWord_formatXI_E ..
  | ldVxDt | ldVxK | ldDtVx | ldStVx | addI | ldF | ldB | stRegs | ldRegs => exact decodeWord_formatXI_F ..
  | jp | call | seImm | sneImm | seReg | ldImm | addImm | sneReg | ldI | jpV0 | rnd | drw =>
    simp [encode, decodeWord]

/-! ### Encoding a decoded word -/

theorem encode_of_decodeGroup0 {op : Word} {i : Instr} (h : decodeGroup0 op = some i) : encode i = op := by
  unfold decodeGroup0 at h
  split_ifs at h with h1 h2 <;> cases h
  · exact h1.symm
  · exact h2.symm

theorem encode_of_decodeGroup8 {x y : RegIx} {n : Nibble} {i : Instr} (h : decodeGroup8 x y n = some i) :
    encode i = formatXY 0x8 x y n := by
  unfold decodeGroup8 at h
  split at h <;> cases h
  all_goals
    rename_i hn
    exact congrArg (formatXY 0x8 x y) (BitVec.eq_of_toNat_eq hn.symm)

theorem encode_of_decodeGroupE {x : RegIx} {nn : Byte} {i : Instr} (h : decodeGroupE x nn = some i) :
    encode i = formatXI 0xE x nn := by
  unfold decodeGroupE at h
  split_ifs at h <;> cases h <;> subst nn <;> rfl

theorem encode_of_decodeGroupF {x : RegIx} {nn : Byte} {i : Instr} (h : decodeGroupF x nn = some i) :
    encode i = formatXI 0xF x nn := by
  unfold decodeGroupF at h
  split_ifs at h <;> cases h <;> subst nn <;> rfl

/-- A word that decodes is the encoding of its instruction: each leaf of the decision tree puts the fields it tested
and the fields it read back where they stood. The leaf of OP = k is the case `h_(k+1)`. -/
theorem encode_of_decodeWord {op : Word} {i : Instr} (h : decodeWord op = some i) : encode i = op := by
  unfold decodeWord at h
  split at h
  case h_1 => exact encode_of_decodeGroup0 h
  case h_9 ho => exact (encode_of_decodeGroup8 h).trans (formatXYN_of_opField (BitVec.eq_of_toNat_eq ho))
  case h_15 ho => exact (encode_of_decodeGroupE h).trans (formatXI_of_opField (BitVec.eq_of_toNat_eq ho))
  case h_16 ho => exact (encode_of_decodeGroupF h).trans (formatXI_of_opField (BitVec.eq_of_toNat_eq ho))
  case h_6 ho | h_10 ho =>
    split_ifs at h with hn
    cases h
    exact formatXY_of_fields (BitVec.eq_of_toNat_eq ho) hn
  case h_2 ho | h_3 ho | h_11 ho | h_12 ho =>
    cases h
    exact formatA_of_opField (BitVec.eq_of_toNat_eq ho)
  case h_4 ho | h_5 ho | h_7 ho | h_8 ho | h_13 ho =>
    cases h
    exact formatXI_of_opField (BitVec.eq_of_toNat_eq ho)
  case h_14 ho =>
    cases h
    exact formatXYN_of_opField (BitVec.eq_of_toNat_eq ho)
  case h_17 => cases h

/-- The decoder answers an instruction iff the word is its encoding. -/
theorem decodeWord_eq_some_iff {op : Word} {i : Instr} : decodeWord op = some i ↔ encode i = op :=
  ⟨encode_of_decodeWord, fun h => h ▸ decodeWord_encode i⟩

theorem encode_injective {i j : Instr} (h : encode i = encode j) : i = j :=
  Option.some.inj ((decodeWord_encode i).symm.trans (h ▸ decodeWord_encode j))

/-! ### The rows of the opcode table -/

section OwnRow

open Laws.Pattern

/-- Every instruction's word matches the row of its mnemonic (R95). -/
theorem encode_matches_own_row : ∀ i : Instr, Statement i
  | .cls => cls | .ret => ret | .jp _ => jp _ | .call _ => call _
  | .seImm _ _ => seImm _ _ | .sneImm _ _ => sneImm _ _ | .seReg _ _ => seReg _ _
  | .ldImm _ _ => ldImm _ _ | .addImm _ _ => addImm _ _
  | .ldReg _ _ => ldReg _ _ | .orReg _ _ => orReg _ _ | .andReg _ _ => andReg _ _ | .xorReg _ _ => xorReg _ _
  | .addReg _ _ => addReg _ _ | .sub _ _ => sub _ _ | .shr _ _ => shr _ _ | .subn _ _ => subn _ _ | .shl _ _ => shl _ _
  | .sneReg _ _ => sneReg _ _ | .ldI _ => ldI _ | .jpV0 _ => jpV0 _ | .rnd _ _ => rnd _ _ | .drw _ _ _ => drw _ _ _
  | .skp _ => skp _ | .sknp _ => sknp _
  | .ldVxDt _ => ldVxDt _ | .ldVxK _ => ldVxK _ | .ldDtVx _ => ldDtVx _ | .ldStVx _ => ldStVx _ | .addI _ => addI _
  | .ldF _ => ldF _ | .ldB _ => ldB _ | .stRegs _ => stRegs _ | .ldRegs _ => ldRegs _

end OwnRow

/-- Every word that matches the row is the encoding of an instruction with the row's mnemonic. -/
def OpcodeRow.Encoded (r : OpcodeRow) : Prop :=
  ∀ op : Word, op &&& r.mask = r.pattern → ∃ i, encode i = op ∧ mnemonicOf i = r.mnemonic

theorem opcodeRowsSingle_encoded : ∀ r ∈ opcodeRowsSingle, r.Encoded := by
  simp only [opcodeRowsSingle, List.forall_mem_cons]
  exact ⟨fun _ h => ⟨.cls, formatZ_of_mask h, rfl⟩, fun _ h => ⟨.ret, formatZ_of_mask h, rfl⟩,
    fun _ h => ⟨.jp _, formatA_of_mask h, rfl⟩, fun _ h => ⟨.call _, formatA_of_mask h, rfl⟩,
    fun _ h => ⟨.seImm _ _, formatXI_of_mask h, rfl⟩, fun _ h => ⟨.sneImm _ _, formatXI_of_mask h, rfl⟩,
    fun _ h => ⟨.seReg _ _, formatXY_of_mask h, rfl⟩, fun _ h => ⟨.ldImm _ _, formatXI_of_mask h, rfl⟩,
    fun _ h => ⟨.addImm _ _, formatXI_of_mask h, rfl⟩, fun _ h => ⟨.sneReg _ _, formatXY_of_mask h, rfl⟩,
    fun _ h => ⟨.ldI _, formatA_of_mask h, rfl⟩, fun _ h => ⟨.jpV0 _, formatA_of_mask h, rfl⟩,
    fun _ h => ⟨.rnd _ _, formatXI_of_mask h, rfl⟩, fun _ h => ⟨.drw _ _ _, formatXYN_of_mask h, rfl⟩, nofun⟩

theorem opcodeRows8_encoded : ∀ r ∈ opcodeRows8, r.Encoded := by
  simp only [opcodeRows8, List.forall_mem_cons]
  exact ⟨fun _ h => ⟨.ldReg _ _, formatXY_of_mask h, rfl⟩, fun _ h => ⟨.orReg _ _, formatXY_of_mask h, rfl⟩,
    fun _ h => ⟨.andReg _ _, formatXY_of_mask h, rfl⟩, fun _ h => ⟨.xorReg _ _, formatXY_of_mask h, rfl⟩,
    fun _ h => ⟨.addReg _ _, formatXY_of_mask h, rfl⟩, fun _ h => ⟨.sub _ _, formatXY_of_mask h, rfl⟩,
    fun _ h => ⟨.shr _ _, formatXY_of_mask h, rfl⟩, fun _ h => ⟨.subn _ _, formatXY_of_mask h, rfl⟩,
    fun _ h => ⟨.shl _ _, formatXY_of_mask h, rfl⟩, nofun⟩

theorem opcodeRowsEF_encoded : ∀ r ∈ opcodeRowsEF, r.Encoded := by
  simp only [opcodeRowsEF, List.forall_mem_cons]
  exact ⟨fun _ h => ⟨.skp _, formatXK_of_mask h, rfl⟩, fun _ h => ⟨.sknp _, formatXK_of_mask h, rfl⟩,
    fun _ h => ⟨.ldVxDt _, formatXK_of_mask h, rfl⟩, fun _ h => ⟨.ldVxK _, formatXK_of_mask h, rfl⟩,
    fun _ h => ⟨.ldDtVx _, formatXK_of_mask h, rfl⟩, fun _ h => ⟨.ldStVx _, formatXK_of_mask h, rfl⟩,
    fun _ h => ⟨.addI _, formatXK_of_mask h, rfl⟩, fun _ h => ⟨.ldF _, formatXK_of_mask h, rfl⟩,
    fun _ h => ⟨.ldB _, formatXK_of_mask h, rfl⟩, fun _ h => ⟨.stRegs _, formatXK_of_mask h, rfl⟩,
    fun _ h => ⟨.ldRegs _, formatXK_of_mask h, rfl⟩, nofun⟩

theorem opcodeRows_encoded {r : OpcodeRow} (hr : r ∈ opcodeRows) : r.Encoded := by
  rw [opcodeRows, List.mem_append, List.mem_append] at hr
  obtain (hr | hr) | hr := hr
  · exact opcodeRowsSingle_encoded r hr
  · exact opcodeRows8_encoded r hr
  · exact opcodeRowsEF_encoded r hr

/-- No mnemonic names two rows. -/
theorem opcodeRows_eq_of_mnemonic : ∀ r ∈ opcodeRows, ∀ r' ∈ opcodeRows, r.mnemonic = r'.mnemonic → r = r' := by
  decide

/-- The word of an instruction matches its own row of R95 and no other. -/
theorem encode_matches_iff (i : Instr) {r : OpcodeRow} (hr : r ∈ opcodeRows) :
    encode i &&& r.mask = r.pattern ↔ r.mnemonic = mnemonicOf i := by
  constructor
  · intro h
    obtain ⟨j, hj, hname⟩ := opcodeRows_encoded hr _ h
    rw [← hname, encode_injective hj]
  · intro h
    obtain ⟨r', hr', hname, hmatch⟩ := encode_matches_own_row i
    rw [opcodeRows_eq_of_mnemonic r hr r' hr' (h.trans hname.symm)]
    exact hmatch

theorem decodeWord_eq_none_iff {op : Word} :
    decodeWord op = none ↔ ∀ r ∈ opcodeRows, op &&& r.mask ≠ r.pattern := by
  constructor
  · intro hnone r hr hmatch
    obtain ⟨i, rfl, -⟩ := opcodeRows_encoded hr op hmatch
    simp at hnone
  · intro h
    refine Option.eq_none_iff_forall_ne_some.2 fun i hi => ?_
    obtain ⟨r, hr, -, hmatch⟩ := encode_matches_own_row i
    exact h r hr (encode_of_decodeWord hi ▸ hmatch)

/-- Settles O3: a word decodes iff it is an instruction's encoding, and it is one iff it matches a row of the table;
the row is then the instruction's own. -/
theorem decoderIsTheOpcodeTable : Obligations.DecoderIsTheOpcodeTable := by
  refine fun op => ⟨decodeWord_eq_none_iff, fun i hi r hr => ?_⟩
  rw [← encode_of_decodeWord hi]
  exact encode_matches_iff i hr

end Sys2Proof
end

section
/-! PROOF. A step checks, then commits: it raises with nothing else changed, or it leaves the fault latch alone
(40_step_cycle.md R125). With it the obligations about a faulting step and about fetch (R122). -/

namespace Sys2Proof.Machine

/-- What R125 leaves an operation at `s` to answer: a next state with the latch as it was, or a fatal condition taken
at `s` itself. -/
def CompletesOrRaises (s : State) (r : Result) : Prop :=
  (∃ t, r = .next t ∧ t.fault = s.fault) ∨ ∃ f, r = raise f s

section CompletesOrRaises

variable {s t : State} {r : Result} {f : Fault}

theorem CompletesOrRaises.completes (h : t.fault = s.fault) : CompletesOrRaises s (.next t) := .inl ⟨t, rfl, h⟩

theorem CompletesOrRaises.raises (f : Fault) (s : State) : CompletesOrRaises s (raise f s) := .inr ⟨f, rfl⟩

/-- The shape of the laws in Laws/Ops.lean: all effects under the check, the latch alone without it. -/
theorem CompletesOrRaises.of_check {c : Prop} [Decidable c]
    (hr : r = if c then .next t else .next { s with fault := some f }) (ht : t.fault = s.fault) :
    CompletesOrRaises s r := by
  by_cases hc : c
  · rw [hr, if_pos hc]
    exact .completes ht
  · rw [hr, if_neg hc]
    exact .raises f s

/-- A latch that is loaded after and was empty before is one that was raised. -/
theorem CompletesOrRaises.eq_of_fault (h : CompletesOrRaises s r) (hs : s.fault = none) (hr : r = .next t)
    (hf : t.fault = some f) : t = { s with fault := some f } := by
  subst hr
  obtain ⟨_, ⟨⟩, hkept⟩ | ⟨_, ⟨⟩⟩ := h
  · rw [hkept, hs] at hf
    cases hf
  · cases hf
    rfl

end CompletesOrRaises

/-! ### The instructions -/

theorem execRet_completesOrRaises (s : State) : CompletesOrRaises s (execRet s) := by
  unfold execRet
  split
  · exact .raises _ s
  · exact .completes rfl

theorem execCall_completesOrRaises (nnn : Addr) (s : State) : CompletesOrRaises s (execCall nnn s) := by
  unfold execCall
  split
  · exact .raises _ s
  · exact .completes rfl

theorem execDrw_completesOrRaises (x y : RegIx) (n : Nibble) (s : State) :
    CompletesOrRaises s (execDrw x y n s) := by
  unfold execDrw
  split
  · exact .completes rfl
  · exact .raises _ s

theorem execLdVxK_completesOrRaises (x : RegIx) (s : State) : CompletesOrRaises s (execLdVxK x s) := by
  unfold execLdVxK
  split
  · exact .completes rfl
  · exact .completes rfl

/-- Every instruction checks before it writes: the nine that can fault, the wait for a key, and the others, which
have no fatal condition. -/
theorem exec_completesOrRaises (i : Instr) (s : State) : CompletesOrRaises s (exec i s) := by
  cases i with
  | ret => exact execRet_completesOrRaises s
  | call nnn => exact execCall_completesOrRaises nnn s
  | drw x y n => exact execDrw_completesOrRaises x y n s
  | skp x => exact .of_check (skipPressed_fault_eq x s) rfl
  | sknp x => exact .of_check (skipNotPressed_fault_eq x s) rfl
  | ldF x => exact .of_check (loadGlyph_fault_eq x s) rfl
  | ldB x => exact .of_check (storeAtIndex_eq (decimalDigits (s.reg x)) s) rfl
  | stRegs x => exact .of_check (storeRegs_false_eq x s) rfl
  | ldRegs x => exact .of_check (loadRegs_false_eq x s) rfl
  | ldVxK x => exact execLdVxK_completesOrRaises x s
  | cls | jp | jpV0 | seImm | sneImm | seReg | sneReg | ldImm | addImm | ldReg | orReg | andReg | xorReg | addReg
  | sub | shr | subn | shl | ldI | rnd | ldVxDt | ldDtVx | ldStVx | addI => exact .completes rfl

/-! ### The step -/

theorem step_completesOrRaises (s : State) : CompletesOrRaises s (step s) := by
  obtain ⟨-, h⟩ | ⟨-, -, h⟩ | ⟨op, -, -, -, h⟩ | ⟨_, i, -, -, -, h⟩ := step_cases s
  · exact h ▸ .completes rfl
  · exact h ▸ .raises .memoryOutOfBounds s
  · exact h ▸ .raises (.unknownInstruction op) s
  · exact h ▸ exec_completesOrRaises i s

/-- Settles O13: a step completes, which would leave the latch empty, or is a raise. -/
theorem faultingStepChangesOnlyTheLatch : Obligations.FaultingStepChangesOnlyTheLatch :=
  fun s _ _ hs hstep hf => (step_completesOrRaises s).eq_of_fault hs hstep hf

/-- A fetch that fails ends the step (R122). -/
theorem step_of_fetch_none {s : State} (hs : s.fault = none) (hfetch : fetch s = none) :
    step s = raise .memoryOutOfBounds s := by
  obtain ⟨hlatched, -⟩ | ⟨-, -, h⟩ | ⟨_, -, hop, -⟩ | ⟨_, _, -, hop, -⟩ := step_cases s
  · exact absurd hs hlatched
  · exact h
  · cases hfetch.symm.trans hop
  · cases hfetch.symm.trans hop

/-- Settles O7: `fetch` answers exactly when both bytes exist, and the step raises when it does not answer. -/
theorem fetchIsBigEndianOrOutOfBounds : Obligations.FetchIsBigEndianOrOutOfBounds := by
  intro s
  constructor
  · intro hpc
    have hne : fetch s ≠ none := fun h => by
      have := (fetch_eq_none_iff s).1 h
      omega
    obtain ⟨op, hop⟩ := Option.ne_none_iff_exists'.1 hne
    exact ⟨op, hop, ((fetch_eq_some_iff s op).1 hop).2⟩
  · intro hs hpc
    rw [← raise_eq]
    exact step_of_fetch_none hs ((fetch_eq_none_iff s).2 (by omega))

end Sys2Proof.Machine
end

section
/-! PROOF. Frames part by part, what the control transfers answer, and the obligations about them
(41_control_flow.md R140 to R148). -/

namespace Sys2Proof.Safety

open Sys2Proof.Machine

/-! ### Frames -/

/-- A frame, part by part: with the parts written out, `simp [changesOnly_iff]` leaves only what the operation must
keep. -/
theorem changesOnly_iff {parts : List Part} {s t : State} : ChangesOnly parts s t ↔
    (.registers ∉ parts → ∀ k, t.reg k = s.reg k) ∧ (.index ∉ parts → t.i = s.i) ∧ (.pc ∉ parts → t.pc = s.pc) ∧
    (.sp ∉ parts → t.sp = s.sp) ∧ (.stack ∉ parts → t.stack = s.stack) ∧
    (.memory ∉ parts → ∀ a, t.mem.read a = s.mem.read a) ∧ (.screen ∉ parts → t.fb = s.fb) ∧
    (.drawFlag ∉ parts → t.drawFlag = s.drawFlag) ∧ (.delayTimer ∉ parts → t.dt = s.dt) ∧
    (.soundTimer ∉ parts → t.st = s.st) ∧ (.faultLatch ∉ parts → t.fault = s.fault) ∧
    (.keys ∉ parts → t.key = s.key) ∧ (.random ∉ parts → t.script = s.script ∧ t.draws = s.draws) := by
  constructor
  · intro h
    exact ⟨h .registers, h .index, h .pc, h .sp, h .stack, h .memory, h .screen, h .drawFlag, h .delayTimer,
      h .soundTimer, h .faultLatch, h .keys, h .random⟩
  · rintro ⟨_, _, _, _, _, _, _, _, _, _, _, _, _⟩ p
    cases p <;> assumption

/-- A state whose `pc` alone is written differs in `pc` alone. -/
theorem changesOnly_pc (s : State) (w : Word) : ChangesOnly [.pc] s { s with pc := w } := by
  simp [changesOnly_iff, State.reg]

/-- What every skip does, whatever it tests (R148). -/
theorem skipsWhen_skipIf {c : Prop} {b : Bool} (s : State) (h : b = true ↔ c) : SkipsWhen c s (s.skipIf b) :=
  ⟨fun hc => by simp [h.2 hc], fun hc => by simp [mt h.1 hc], changesOnly_pc s _⟩

end Sys2Proof.Safety

namespace Sys2Proof.Machine

open Sys2Proof.Safety

/-! ### The operands of a jump -/

@[simp] theorem toNat_addrOperand (nnn : Addr) : (addrOperand nnn).toNat = nnn.toNat :=
  BitVec.toNat_setWidth_of_le (by decide)

@[simp] theorem toNat_byteOperand (b : Byte) : (byteOperand b).toNat = b.toNat :=
  BitVec.toNat_setWidth_of_le (by decide)

/-- The largest target of BNNN, 0x0FFF + 0xFF, fits `pc`, so the 16-bit sum is the natural one (R143). -/
theorem toNat_addrOperand_add_byteOperand (nnn : Addr) (b : Byte) :
    (addrOperand nnn + byteOperand b).toNat = nnn.toNat + b.toNat := by
  have := nnn.isLt
  have := b.isLt
  rw [BitVec.toNat_add, toNat_addrOperand, toNat_byteOperand]
  omega

/-! ### Return and call, below and at their bounds -/

section Subroutines

variable {s : State}

theorem exec_ret_of_sp_eq_zero (h : s.sp.val = 0) :
    exec .ret s = .next { s with fault := some .stackUnderflow } := dif_pos h

theorem exec_ret_of_sp_ne_zero (h : s.sp.val ≠ 0) :
    exec .ret s = .next { s with pc := s.stack[s.sp.val - 1], sp := ⟨s.sp.val - 1, by omega⟩ } := dif_neg h

theorem exec_call_of_sp_eq_bound (nnn : Addr) (h : s.sp.val = 16) :
    exec (.call nnn) s = .next { s with fault := some .stackOverflow } := dif_pos h

theorem exec_call_of_sp_ne_bound (nnn : Addr) (h : s.sp.val ≠ 16) :
    exec (.call nnn) s = .next { s with
      stack := s.stack.set s.sp.val (s.pc + 2) (by omega), sp := ⟨s.sp.val + 1, by omega⟩,
      pc := addrOperand nnn } := dif_neg h

end Subroutines

/-! ### The obligations -/

/-- Settles O30, from the two equations of 00EE. -/
theorem returnPopsTheStack : Obligations.ReturnPopsTheStack := by
  refine ⟨decodeWord_encode .ret, fun s => ⟨exec_ret_of_sp_eq_zero, fun h => ?_⟩⟩
  refine ⟨_, exec_ret_of_sp_ne_zero h, ?_, rfl, ?_⟩
  · exact Vector.getElem?_eq_getElem _
  · simp [changesOnly_iff, State.reg]

/-- Settles O31. -/
theorem jumpLoadsTheAddress : Obligations.JumpLoadsTheAddress := fun nnn s =>
  ⟨decodeWord_encode (.jp nnn), _, rfl, toNat_addrOperand nnn, changesOnly_pc s _⟩

/-- Settles O32, from the two equations of 2NNN; that one slot is written is what `Vector.set` says of the others. -/
theorem callPushesTheReturnAddress : Obligations.CallPushesTheReturnAddress := by
  refine fun nnn s => ⟨decodeWord_encode (.call nnn), exec_call_of_sp_eq_bound nnn, fun h => ?_⟩
  refine ⟨_, exec_call_of_sp_ne_bound nnn h, ?_, fun k _ hk => ?_, rfl, toNat_addrOperand nnn, ?_⟩
  · exact Vector.getElem?_set_self (by omega)
  · exact Vector.getElem?_set_ne (by omega) hk.symm
  · simp [changesOnly_iff, State.reg]

/-- Settles O33: the offset is `v[0]`, and the sum does not wrap. -/
theorem indexedJumpAddsV0 : Obligations.IndexedJumpAddsV0 := fun nnn s =>
  ⟨decodeWord_encode (.jpV0 nnn), _, rfl, toNat_addrOperand_add_byteOperand nnn (s.reg 0), changesOnly_pc s _⟩

/-- Settles O35: each of the four is `State.skipIf` on its own test, and bytes are equal as their numbers are. -/
theorem registerSkipsTestEquality : Obligations.RegisterSkipsTestEquality := by
  have heq (a b : Byte) : (a == b) = true ↔ a.toNat = b.toNat := by rw [beq_iff_eq, BitVec.toNat_inj]
  have hne (a b : Byte) : (a != b) = true ↔ a.toNat ≠ b.toNat := by rw [bne_iff_ne, BitVec.toNat_ne_iff_ne]
  intro x y nn s
  refine ⟨⟨decodeWord_encode (.seImm x nn), _, rfl, ?_⟩, ⟨decodeWord_encode (.sneImm x nn), _, rfl, ?_⟩,
    ⟨decodeWord_encode (.seReg x y), _, rfl, ?_⟩, ⟨decodeWord_encode (.sneReg x y), _, rfl, ?_⟩⟩
  · exact skipsWhen_skipIf s (heq _ _)
  · exact skipsWhen_skipIf s (hne _ _)
  · exact skipsWhen_skipIf s (heq _ _)
  · exact skipsWhen_skipIf s (hne _ _)

end Sys2Proof.Machine
end

section
/-! PROOF. What the register file holds after a register operation, as numbers, and the obligations about the loads,
the sums, the differences and the shifts (42_alu.md R160 to R172). -/

namespace Sys2Proof.Machine

open Sys2Proof.Safety

/-! ### The results and the flags as numbers -/

@[simp] theorem toNat_sumResult (a b : Byte) : (sumResult a b).toNat = (a.toNat + b.toNat) % 256 :=
  BitVec.toNat_ofNat _ _

/-- The difference modulo 256 (R160), by whether there is a borrow. -/
theorem toNat_diffResult (a b : Byte) : (diffResult a b).toNat =
    if b.toNat ≤ a.toNat then a.toNat - b.toNat else a.toNat + 256 - b.toNat := by
  have := a.isLt
  have := b.isLt
  rw [diffResult, BitVec.toNat_ofInt]
  split <;> omega

@[simp] theorem toNat_shrResult (a : Byte) : (shrResult a).toNat = a.toNat / 2 := by
  rw [shrResult, BitVec.toNat_ushiftRight, Nat.shiftRight_eq_div_pow, Nat.pow_one]

@[simp] theorem toNat_shlResult (a : Byte) : (shlResult a).toNat = a.toNat * 2 % 256 := by
  rw [shlResult, BitVec.toNat_shiftLeft, Nat.shiftLeft_eq, Nat.pow_one]

/-- Bit 0 is set in the odd bytes. -/
theorem shrOut_eq (a : Byte) : shrOut a = decide (a.toNat % 2 = 1) := by
  rw [shrOut, BitVec.getLsbD, Nat.testBit_zero]

/-- Bit 7 is set in the bytes of at least 128. -/
theorem shlOut_eq (a : Byte) : shlOut a = decide (128 ≤ a.toNat) :=
  BitVec.msb_eq_decide a

/-! ### How an instruction that writes a register ends -/

/-- `State.finish` writes the one register (R164). -/
theorem writesRegister_finish (s : State) (x : RegIx) (r : Byte) : WritesRegister s (s.finish x r) x r.toNat := by
  refine ⟨fun k => ?_, rfl, ?_⟩
  · rw [State.reg_finish, apply_ite BitVec.toNat]
  · simp [changesOnly_iff]

/-- `State.finishFlag` writes the result and then VF (R161). -/
theorem writesResultThenFlag_finishFlag (s : State) (x : RegIx) (r : Byte) (f : Bool) :
    WritesResultThenFlag s (s.finishFlag x r f) x r.toNat f := by
  refine ⟨fun k => ?_, rfl, ?_⟩
  · rw [State.reg_finishFlag, apply_ite BitVec.toNat, apply_ite BitVec.toNat, toNat_flagByte]
  · simp [changesOnly_iff]

/-! ### The obligations -/

/-- Settles O36: both end in `State.finish`, with NN or the old `v[Y]`. -/
theorem loadAndCopyWriteTheRegister : Obligations.LoadAndCopyWriteTheRegister := fun x y nn s =>
  ⟨⟨decodeWord_encode (.ldImm x nn), _, rfl, writesRegister_finish s x nn⟩,
    ⟨decodeWord_encode (.ldReg x y), _, rfl, writesRegister_finish s x (s.reg y)⟩⟩

/-- Settles O38: each of the three ends in `State.finishFlag` with a sum or a difference. -/
theorem addAndSubtractSetVF : Obligations.AddAndSubtractSetVF := by
  intro x y s
  refine ⟨⟨decodeWord_encode (.addReg x y), _, rfl, ?_⟩, ⟨decodeWord_encode (.sub x y), _, rfl, ?_⟩,
    ⟨decodeWord_encode (.subn x y), _, rfl, ?_⟩⟩
  · rw [← toNat_sumResult]
    exact writesResultThenFlag_finishFlag ..
  · rw [← toNat_diffResult]
    exact writesResultThenFlag_finishFlag ..
  · rw [← toNat_diffResult]
    exact writesResultThenFlag_finishFlag ..

/-- Settles O39: each of the two ends in `State.finishFlag` with `v[X]` shifted and the bit shifted out. -/
theorem shiftsSetVF : Obligations.ShiftsSetVF := by
  intro x y s
  refine ⟨⟨decodeWord_encode (.shr x y), _, rfl, ?_⟩, ⟨decodeWord_encode (.shl x y), _, rfl, ?_⟩⟩
  · rw [← toNat_shrResult, ← shrOut_eq]
    exact writesResultThenFlag_finishFlag ..
  · rw [← toNat_shlResult, ← shlOut_eq]
    exact writesResultThenFlag_finishFlag ..

end Sys2Proof.Machine
end

section
/-! PROOF. What a block store leaves in memory, what FX33 answers below and at the end of memory, and the obligations
about ANNN and FX33 (43_index_memory.md R190, R193). -/

namespace Sys2Proof.Machine

open Sys2Proof.Safety

/-! ### Reading inside and outside a stored block -/

section BlockStore

variable (m : Memory) (a : Nat) {bs : List Byte}

theorem Memory.read_writeBytes_add {k : Nat} (h : k < bs.length) : (m.writeBytes a bs).read (a + k) = bs[k] := by
  have hin : a ≤ a + k ∧ a + k - a < bs.length := by omega
  rw [Memory.read_writeBytes, dif_pos hin]
  simp only [Nat.add_sub_cancel_left]

theorem Memory.read_writeBytes_outside {a' : Nat} (h : a' < a ∨ a + bs.length ≤ a') :
    (m.writeBytes a bs).read a' = m.read a' := by
  have hout : ¬(a ≤ a' ∧ a' - a < bs.length) := by omega
  rw [Memory.read_writeBytes, dif_neg hout]

end BlockStore

/-- A store of memory and `pc` changes nothing else, whatever is written to them. -/
theorem changesOnly_memory_pc (s : State) (m : Memory) (w : Word) :
    ChangesOnly [.memory, .pc] s { s with mem := m, pc := w } := by
  simp [changesOnly_iff, State.reg]

/-! ### FX33, below and at the end of memory -/

/-- The three bytes FX33 stores, as numbers: a digit fits its byte, so none is cut (R193). -/
theorem toNat_read_writeBytes_decimalDigits (m : Memory) (a : Nat) (b : Byte) :
    ((m.writeBytes a (decimalDigits b)).read a).toNat = b.toNat / 100 ∧
    ((m.writeBytes a (decimalDigits b)).read (a + 1)).toNat = b.toNat / 10 % 10 ∧
    ((m.writeBytes a (decimalDigits b)).read (a + 2)).toNat = b.toNat % 10 := by
  have hstored (k : Nat) (hk : k < 3) : (m.writeBytes a (decimalDigits b)).read (a + k) = (decimalDigits b)[k] :=
    Memory.read_writeBytes_add m a hk
  have hfits {d : Nat} (hd : d < 256) : (BitVec.ofNat 8 d).toNat = d := Nat.mod_eq_of_lt hd
  have hb := b.isLt
  refine ⟨?_, ?_, ?_⟩
  · exact (congrArg _ (hstored 0 (by decide))).trans (hfits (by omega))
  · exact (congrArg _ (hstored 1 (by decide))).trans (hfits (by omega))
  · exact (congrArg _ (hstored 2 (by decide))).trans (hfits (by omega))

section StoreDigits

variable {x : RegIx} {s : State}

theorem exec_ldB_of_lt (h : s.i.toNat + 2 < 4096) : exec (.ldB x) s = .next { s with
    mem := s.mem.writeBytes s.i.toNat (decimalDigits (s.reg x)), pc := s.pc + 2 } :=
  (storeAtIndex_eq ..).trans (if_pos (.inr h))

theorem exec_ldB_of_le (h : 4096 ≤ s.i.toNat + 2) :
    exec (.ldB x) s = .next { s with fault := some .memoryOutOfBounds } := by
  refine (storeAtIndex_eq ..).trans (if_neg ?_)
  rintro (hlen | hle)
  · cases hlen
  · exact absurd h (Nat.not_le.2 hle)

end StoreDigits

/-! ### The obligations -/

/-- Settles O41. -/
theorem loadIndexRegister : Obligations.LoadIndexRegister := fun nnn s =>
  ⟨decodeWord_encode (.ldI nnn), _, rfl, toNat_addrOperand nnn, rfl, by simp [changesOnly_iff, State.reg]⟩

/-- Settles O44, from the two equations of FX33: the digits stand inside the stored block, every other address
outside it. -/
theorem storeDecimalDigits : Obligations.StoreDecimalDigits := by
  refine fun x s => ⟨decodeWord_encode (.ldB x), fun h => ?_, exec_ldB_of_le⟩
  obtain ⟨hhundreds, htens, hunits⟩ := toNat_read_writeBytes_decimalDigits s.mem s.i.toNat (s.reg x)
  exact ⟨_, exec_ldB_of_lt h, hhundreds, htens, hunits, fun _ ha => Memory.read_writeBytes_outside _ _ ha, rfl,
    changesOnly_memory_pc s _ _⟩

end Sys2Proof.Machine
end

section
/-! PROOF. The draw engine flips the pixels under a sprite's bits, and the obligations about the pixels and the collision
flag of a draw (44_display.md R213, R214). -/

namespace Sys2Proof.Machine

open Sys2Proof.Safety

/-! ### Drawing over a set of pixels, and two such draws in a row -/

/-- What drawing does: the pixels of `c` are flipped and no others, and the collision flag is set iff it was set or a
pixel of `c` was. -/
def FlipsOver (c : Nat → Nat → Prop) (acc acc' : Screen × Bool) : Prop :=
  (∀ x < 64, ∀ y < 32, (c x y → pixel acc'.1 x y = !pixel acc.1 x y) ∧
    (¬c x y → pixel acc'.1 x y = pixel acc.1 x y)) ∧
  (acc'.2 = true ↔ acc.2 = true ∨ ∃ x < 64, ∃ y < 32, c x y ∧ pixel acc.1 x y = true)

theorem FlipsOver.of_empty {c : Nat → Nat → Prop} (hc : ∀ x y, ¬c x y) (acc : Screen × Bool) :
    FlipsOver c acc acc := by
  simp [FlipsOver, hc]

/-- Draws over disjoint pixels add up: the first leaves the pixels the second flips as they were. -/
theorem FlipsOver.trans {c d : Nat → Nat → Prop} {acc acc' acc'' : Screen × Bool} (hcd : ∀ x y, c x y → ¬d x y)
    (h : FlipsOver c acc acc') (h' : FlipsOver d acc' acc'') :
    FlipsOver (fun x y => c x y ∨ d x y) acc acc'' := by
  obtain ⟨hpix, hflag⟩ := h
  obtain ⟨hpix', hflag'⟩ := h'
  have hkept : ∀ x < 64, ∀ y < 32, d x y → pixel acc'.1 x y = pixel acc.1 x y :=
    fun x hx y hy hd => (hpix x hx y hy).2 fun hc => hcd x y hc hd
  refine ⟨fun x hx y hy => ⟨?_, fun hn => ?_⟩, ?_⟩
  · rintro (hc | hd)
    · rw [(hpix' x hx y hy).2 (hcd x y hc), (hpix x hx y hy).1 hc]
    · rw [(hpix' x hx y hy).1 hd, hkept x hx y hy hd]
  · rw [(hpix' x hx y hy).2 (hn ∘ .inr), (hpix x hx y hy).2 (hn ∘ .inl)]
  · rw [hflag', hflag, or_assoc]
    refine or_congr_right ⟨?_, ?_⟩
    · rintro (⟨x, hx, y, hy, hc, hset⟩ | ⟨x, hx, y, hy, hd, hset⟩)
      · exact ⟨x, hx, y, hy, .inl hc, hset⟩
      · exact ⟨x, hx, y, hy, .inr hd, hkept x hx y hy hd ▸ hset⟩
    · rintro ⟨x, hx, y, hy, hc | hd, hset⟩
      · exact .inl ⟨x, hx, y, hy, hc, hset⟩
      · exact .inr ⟨x, hx, y, hy, hd, (hkept x hx y hy hd).trans hset⟩

/-- A set pixel is cleared iff it is one that is flipped. -/
theorem FlipsOver.cleared_iff {c : Nat → Nat → Prop} {acc acc' : Screen × Bool} (h : FlipsOver c acc acc') {x y : Nat}
    (hx : x < 64) (hy : y < 32) :
    pixel acc.1 x y = true ∧ pixel acc'.1 x y = false ↔ c x y ∧ pixel acc.1 x y = true := by
  obtain ⟨hflip, hkeep⟩ := h.1 x hx y hy
  by_cases hc : c x y
  · simp [hflip hc, hc]
  · simp [hkeep hc, hc]

/-! ### The pixels a sprite covers, row by row -/

section Covers

variable {x0 y0 x y : Nat} {row : Byte} {rows : List Byte}

theorem not_spriteCovers_nil : ¬SpriteCovers x0 y0 [] x y := by
  rintro ⟨r, b, hr, -⟩
  cases hr

theorem spriteCovers_singleton : SpriteCovers x0 y0 [row] x y ↔
    ∃ b < 8, row.getLsbD (7 - b) = true ∧ (x0 + b) % 64 = x ∧ y0 % 32 = y := by
  constructor
  · rintro ⟨r, b, hr, hcov⟩
    obtain rfl : r = 0 := by simpa using hr
    exact ⟨b, hcov⟩
  · rintro ⟨b, hcov⟩
    exact ⟨0, b, Nat.one_pos, hcov⟩

theorem spriteCovers_cons : SpriteCovers x0 y0 (row :: rows) x y ↔
    SpriteCovers x0 y0 [row] x y ∨ SpriteCovers x0 (y0 + 1) rows x y := by
  rw [spriteCovers_singleton]
  constructor
  · rintro ⟨_ | r, b, hr, hb, hbit, hx, hy⟩
    · exact .inl ⟨b, hb, hbit, hx, hy⟩
    · exact .inr ⟨r, b, Nat.lt_of_succ_lt_succ hr, hb, hbit, hx, by omega⟩
  · rintro (⟨b, hcov⟩ | ⟨r, b, hr, hb, hbit, hx, hy⟩)
    · exact ⟨0, b, Nat.succ_pos _, hcov⟩
    · exact ⟨r + 1, b, Nat.succ_lt_succ hr, hb, hbit, hx, by omega⟩

/-- No row reaches back to the first one's line, as long as the sprite is no taller than the screen. -/
theorem not_spriteCovers_of_first_row (hlen : rows.length < 32) (h : SpriteCovers x0 y0 [row] x y) :
    ¬SpriteCovers x0 (y0 + 1) rows x y := by
  obtain ⟨-, -, -, -, hy⟩ := spriteCovers_singleton.1 h
  rintro ⟨r, -, hr, -, -, -, hy'⟩
  omega

end Covers

/-! ### A row, the rows, and the whole draw -/

/-- `drawRow_spec`, in terms of the pixels that the row covers. -/
theorem flipsOver_drawRow (x0 y0 : Nat) (row : Byte) (acc : Screen × Bool) :
    FlipsOver (SpriteCovers x0 y0 [row]) acc (drawRow x0 y0 row acc) := by
  obtain ⟨hpix, hflag⟩ := drawRow_spec x0 y0 row acc
  constructor
  · intro x hx y hy
    have hany : ((List.range 8).any fun b =>
        row.getLsbD (7 - b) && (x % 64 == (x0 + b) % 64 && y % 32 == y0 % 32)) = true ↔
        SpriteCovers x0 y0 [row] x y := by
      simp [spriteCovers_singleton, Nat.mod_eq_of_lt hx, Nat.mod_eq_of_lt hy, eq_comm (a := x), eq_comm (a := y)]
    rw [hpix, ← hany]
    exact ⟨fun h => by rw [h, Bool.xor_true], fun h => by rw [Bool.eq_false_of_not_eq_true h, Bool.xor_false]⟩
  · rw [hflag, Bool.or_eq_true, List.any_eq_true]
    refine or_congr_right ⟨?_, ?_⟩
    · rintro ⟨b, hb, hhit⟩
      obtain ⟨hbit, hset⟩ := Bool.and_eq_true_iff.1 hhit
      exact ⟨(x0 + b) % 64, Nat.mod_lt _ (by decide), y0 % 32, Nat.mod_lt _ (by decide),
        spriteCovers_singleton.2 ⟨b, List.mem_range.1 hb, hbit, rfl, rfl⟩, (pixel_mod ..).trans hset⟩
    · rintro ⟨x, -, y, -, hcov, hset⟩
      obtain ⟨b, hb, hbit, rfl, rfl⟩ := spriteCovers_singleton.1 hcov
      exact ⟨b, List.mem_range.2 hb, Bool.and_eq_true_iff.2 ⟨hbit, (pixel_mod ..).symm.trans hset⟩⟩

/-- A sprite no taller than the screen: its rows cover disjoint pixels, so their draws add up. -/
theorem flipsOver_drawRows (x0 y0 : Nat) (rows : List Byte) (acc : Screen × Bool) (hlen : rows.length ≤ 32) :
    FlipsOver (SpriteCovers x0 y0 rows) acc (drawRows x0 y0 rows acc) := by
  induction rows generalizing y0 acc with
  | nil => exact .of_empty (fun _ _ => not_spriteCovers_nil) acc
  | cons row rows ih =>
    have hrest := ih (y0 + 1) (drawRow x0 y0 row acc) (Nat.le_of_succ_le hlen)
    have hdisjoint : ∀ x y, SpriteCovers x0 y0 [row] x y → ¬SpriteCovers x0 (y0 + 1) rows x y :=
      fun _ _ => not_spriteCovers_of_first_row hlen
    have hcovers : SpriteCovers x0 y0 (row :: rows) =
        fun x y => SpriteCovers x0 y0 [row] x y ∨ SpriteCovers x0 (y0 + 1) rows x y :=
      funext₂ fun _ _ => propext spriteCovers_cons
    rw [hcovers]
    exact (flipsOver_drawRow x0 y0 row acc).trans hdisjoint hrest

theorem flipsOver_draw (fb : Screen) (x0 y0 : Nat) {rows : List Byte} (hlen : rows.length ≤ 15) :
    FlipsOver (SpriteCovers x0 y0 rows) (fb, false) (draw fb x0 y0 rows) :=
  flipsOver_drawRows x0 y0 rows (fb, false) (hlen.trans (by decide))

/-! ### The obligations -/

/-- Settles O49: a draw flips over the pixels its sprite covers, from a collision flag that is not set. -/
theorem drawFlipsTheSpritesPixels : Obligations.DrawFlipsTheSpritesPixels := by
  intro fb x0 y0 rows hlen
  obtain ⟨hpix, hflag⟩ := flipsOver_draw fb x0 y0 hlen
  exact ⟨hpix, hflag.trans (or_iff_right Bool.false_ne_true)⟩

/-- Settles O50: the pixels cleared are the set ones that the sprite covers, and O49 says when there is one. -/
theorem collisionIsASetPixelCleared : Obligations.CollisionIsASetPixelCleared := by
  intro fb x0 y0 rows hlen
  have hcleared : (∃ x < 64, ∃ y < 32, pixel fb x y = true ∧ pixel (draw fb x0 y0 rows).1 x y = false) ↔
      ∃ x < 64, ∃ y < 32, SpriteCovers x0 y0 rows x y ∧ pixel fb x y = true :=
    exists_congr fun _ => and_congr_right fun hx => exists_congr fun _ => and_congr_right fun hy =>
      (flipsOver_draw fb x0 y0 hlen).cleared_iff hx hy
  obtain ⟨-, hflag⟩ := drawFlipsTheSpritesPixels fb x0 y0 rows hlen
  exact ⟨hflag.trans hcleared.symm, hcleared⟩

end Sys2Proof.Machine
end

section
/-! PROOF. The obligations about an unknown opcode (spec 60_exceptions.md R251) and about the timer tick (R264). -/

namespace Sys2Proof.Machine

open Sys2Proof.Safety

/-- A fetched word that matches no instruction ends the step (R251). -/
theorem step_of_decodeWord_none {s : State} {op : Word} (hs : s.fault = none) (hfetch : fetch s = some op)
    (hdecode : decodeWord op = none) : step s = raise (.unknownInstruction op) s := by
  obtain ⟨hlatched, -⟩ | ⟨-, hnone, -⟩ | ⟨_, -, hop, -, h⟩ | ⟨_, _, -, hop, hi, -⟩ := step_cases s
  · exact absurd hs hlatched
  · cases hfetch.symm.trans hnone
  · cases hfetch.symm.trans hop
    exact h
  · cases hfetch.symm.trans hop
    cases hdecode.symm.trans hi

/-- Settles O8: a step that is ready to execute fetches the opcode, and what it raises loads the latch alone. -/
theorem unknownOpcodeIsLatched : Obligations.UnknownOpcodeIsLatched := by
  intro s _ hready hdecode
  rw [← raise_eq]
  exact step_of_decodeWord_none hready.1 (fetch_of_ready hready) hdecode

/-- The byte subtraction of a tick is the natural one: 1 is taken only from a timer above 0 (R264). -/
theorem toNat_tick (t : Byte) : (tick t).toNat = if 0 < t.toNat then t.toNat - 1 else 0 := by
  unfold tick
  split
  case isTrue hpos => exact BitVec.toNat_sub_of_le (BitVec.le_def.2 hpos)
  case isFalse => rfl

theorem changesOnly_tickTimers (s : State) : ChangesOnly [.delayTimer, .soundTimer] s s.tickTimers := by
  simp [changesOnly_iff]

/-- Settles O23: each timer by the law of one tick. -/
theorem tickDecrementsNonzeroTimers : Obligations.TickDecrementsNonzeroTimers := fun s =>
  ⟨toNat_tick s.dt, toNat_tick s.st, changesOnly_tickTimers s⟩

end Sys2Proof.Machine
end

section
/-! PROOF. The decoder against the encoder, and the census of the unknown words (spec 30_encoding.md R90 to R96). -/

namespace Sys2Proof

/-- Two bytes decode as the word they join to, and what follows them is left. -/
theorem decode_cons_cons_eq_ok_iff {hi lo : Byte} {rest : List Byte} {i : Instr} :
    decode (hi :: lo :: rest) = .ok (i, rest) ↔ decodeWord (wordOfBytes hi lo) = some i := by
  rw [decode]
  cases decodeWord (wordOfBytes hi lo) <;> simp

/-- Settles O1: the two bytes of a word join to the word again, and the decoder gives back every encoded
instruction; each instruction being well formed, the premise is not needed. -/
theorem decodeInvertsEncode : Obligations.DecodeInvertsEncode := by
  intro i rest _
  refine decode_cons_cons_eq_ok_iff.2 ?_
  rw [wordOfBytes_hi_lo, decodeWord_encode]

/-- Settles O2, leaf by leaf of the decision tree in `encode_of_decodeWord`. -/
theorem encodeInvertsDecode : Obligations.EncodeInvertsDecode := fun _ _ => encode_of_decodeWord

/-- Settles O6: the twelve known words are encodings, the four unknown ones are leaves of the tree. -/
theorem exampleWordsDecode : Obligations.ExampleWordsDecode :=
  ⟨decodeWord_encode .cls, decodeWord_encode (.call 0x20C), decodeWord_encode (.seImm 2 0x05),
    decodeWord_encode (.sneReg 1 2), decodeWord_encode (.addReg 0 1), decodeWord_encode (.shr 3 0xA),
    decodeWord_encode (.rnd 3 0x0F), decodeWord_encode (.ldI 0x300), decodeWord_encode (.ldRegs 2),
    decodeWord_encode (.drw 0 1 5), decodeWord_encode (.skp 4), decodeWord_encode (.ldVxK 5), rfl, rfl, rfl, rfl⟩

/-! ### The census of the unknown words, group by group of the decision tree -/

section Counting

variable {p q : Nat → Prop} [DecidablePred p] [DecidablePred q] {b n : Nat}

theorem count_congr (h : ∀ w < n, p w ↔ q w) : Nat.count p n = Nat.count q n :=
  le_antisymm (Nat.count_mono_left fun w hw => (h w hw).1) (Nat.count_mono_left fun w hw => (h w hw).2)

/-- Counting in `n` blocks of length `b`. -/
theorem count_mul_eq_sum (p : Nat → Prop) [DecidablePred p] (b n : Nat) :
    Nat.count p (b * n) = ∑ o ∈ Finset.range n, Nat.count (fun r => p (b * o + r)) b := by
  induction n with
  | zero => simp
  | succ n ih => rw [Nat.mul_succ, Nat.count_add, Finset.sum_range_succ, ih]

/-- A predicate that looks at the remainder modulo `b` alone holds equally often in every block of length `b`. -/
theorem count_of_mod (n : Nat) (h : ∀ w, p w ↔ q (w % b)) : Nat.count p (b * n) = n * Nat.count q b := by
  have hblock (o : Nat) : Nat.count (fun r => p (b * o + r)) b = Nat.count q b :=
    count_congr fun r hr => by rw [h, Nat.mul_add_mod, Nat.mod_eq_of_lt hr]
  simp [count_mul_eq_sum, hblock]

end Counting

section Groups

variable {o r : Nat}

/-- Which words of group `o` are unknown, by their low twelve bits `r`: outside group 0 no test of the decision tree
looks at X or Y. -/
def unknownTail (o r : Nat) : Bool :=
  match o with
  | 0x0 => r != 0x0E0 && r != 0x0EE
  | 0x5 | 0x9 => r % 16 != 0
  | 0x8 => (decodeGroup8 0 0 (BitVec.ofNat 4 r)).isNone
  | 0xE => (decodeGroupE 0 (BitVec.ofNat 8 r)).isNone
  | 0xF => (decodeGroupF 0 (BitVec.ofNat 8 r)).isNone
  | _ => false

theorem toNat_opField_ofNat (ho : o < 16) (hr : r < 4096) :
    (opField (BitVec.ofNat 16 (4096 * o + r))).toNat = o := by
  rw [toNat_opField, BitVec.toNat_ofNat]
  omega

theorem nField_ofNat : nField (BitVec.ofNat 16 (4096 * o + r)) = BitVec.ofNat 4 r := by
  apply BitVec.eq_of_toNat_eq
  rw [toNat_nField, BitVec.toNat_ofNat, BitVec.toNat_ofNat]
  omega

theorem nnField_ofNat : nnField (BitVec.ofNat 16 (4096 * o + r)) = BitVec.ofNat 8 r := by
  apply BitVec.eq_of_toNat_eq
  rw [toNat_nnField, BitVec.toNat_ofNat, BitVec.toNat_ofNat]
  omega

theorem isNone_decodeGroup8 (x y : RegIx) (n : Nibble) :
    (decodeGroup8 x y n).isNone = (decodeGroup8 0 0 n).isNone := by
  unfold decodeGroup8
  split <;> rfl

theorem isNone_decodeGroupE (x : RegIx) (nn : Byte) : (decodeGroupE x nn).isNone = (decodeGroupE 0 nn).isNone := by
  simp only [decodeGroupE, apply_ite Option.isNone, Option.isNone_some]

theorem isNone_decodeGroupF (x : RegIx) (nn : Byte) : (decodeGroupF x nn).isNone = (decodeGroupF 0 nn).isNone := by
  simp only [decodeGroupF, apply_ite Option.isNone, Option.isNone_some]

theorem ofNat4_eq_zero_iff : BitVec.ofNat 4 r = 0#4 ↔ r % 16 = 0 := by
  rw [← BitVec.toNat_inj, BitVec.toNat_ofNat]
  rfl

/-- Group 0 compares the whole word. -/
theorem isNone_decodeGroup0_ofNat (hr : r < 4096) :
    (decodeGroup0 (BitVec.ofNat 16 (4096 * 0 + r))).isNone = unknownTail 0 r := by
  have hword (k : Nat) (hk : k < 65536) : BitVec.ofNat 16 (4096 * 0 + r) = BitVec.ofNat 16 k ↔ r = k := by
    rw [← BitVec.toNat_inj, BitVec.toNat_ofNat, BitVec.toNat_ofNat]
    omega
  simp only [decodeGroup0, hword _ (by decide : 0x00E0 < 65536), hword _ (by decide : 0x00EE < 65536), unknownTail]
  split_ifs with h h' <;> simp [h]
  · simp [h']
  · simp [h']

/-- The leaves of the decision tree, one group a case. -/
theorem isNone_decodeWord_ofNat (ho : o < 16) (hr : r < 4096) :
    (decodeWord (BitVec.ofNat 16 (4096 * o + r))).isNone = unknownTail o r := by
  have hop := toNat_opField_ofNat ho hr
  match o, ho with
  | 0x0, _ =>
    simp only [decodeWord, hop]
    exact isNone_decodeGroup0_ofNat hr
  | 0x5, _ | 0x9, _ =>
    simp only [decodeWord, hop, nField_ofNat, ofNat4_eq_zero_iff, unknownTail]
    split_ifs with h <;> simp [h]
  | 0x8, _ =>
    simp only [decodeWord, hop]
    rw [isNone_decodeGroup8, nField_ofNat]
    rfl
  | 0xE, _ =>
    simp only [decodeWord, hop]
    rw [isNone_decodeGroupE, nnField_ofNat]
    rfl
  | 0xF, _ =>
    simp only [decodeWord, hop]
    rw [isNone_decodeGroupF, nnField_ofNat]
    rfl
  | 0x1, _ | 0x2, _ | 0x3, _ | 0x4, _ | 0x6, _ | 0x7, _ | 0xA, _ | 0xB, _ | 0xC, _ | 0xD, _ =>
    simp only [decodeWord, hop]
    rfl
  | o + 16, ho => omega

/-! ### How many words of a group are unknown -/

/-- Group 0 has two known words. -/
theorem count_unknownTail_0 : Nat.count (fun r => unknownTail 0x0 r = true) 4096 = 4094 := by
  have hknown : (Finset.range 4096).filter (fun r => unknownTail 0x0 r = true) =
      Finset.range 4096 \ {0x0E0, 0x0EE} := by
    ext r
    simp [unknownTail]
  have hsub : ({0x0E0, 0x0EE} : Finset Nat) ⊆ Finset.range 4096 := by simp [Finset.insert_subset_iff]
  rw [Nat.count_eq_card_filter_range, hknown, Finset.card_sdiff_of_subset hsub, Finset.card_range]
  rfl

/-- A group that looks at the low nibble alone repeats with every 16 words. -/
theorem count_unknownTail_of_nibble (h : ∀ w, unknownTail o (w % 16) = unknownTail o w) :
    Nat.count (fun r => unknownTail o r = true) 4096 = 256 * Nat.count (fun r => unknownTail o r = true) 16 :=
  count_of_mod (b := 16) 256 fun w => by rw [h]

/-- A group that looks at the low byte alone repeats with every 256 words. -/
theorem count_unknownTail_of_byte (h : ∀ w, unknownTail o (w % 256) = unknownTail o w) :
    Nat.count (fun r => unknownTail o r = true) 4096 =
      16 * ∑ k ∈ Finset.range 16, Nat.count (fun r => unknownTail o (16 * k + r) = true) 16 := by
  rw [← count_mul_eq_sum (fun r => unknownTail o r = true) 16 16]
  exact count_of_mod (b := 256) 16 fun w => by rw [h]

theorem unknownTail_mod_5 (w : Nat) : unknownTail 0x5 (w % 16) = unknownTail 0x5 w := by
  simp [unknownTail]

theorem unknownTail_mod_9 (w : Nat) : unknownTail 0x9 (w % 16) = unknownTail 0x9 w := by
  simp [unknownTail]

theorem unknownTail_mod_8 (w : Nat) : unknownTail 0x8 (w % 16) = unknownTail 0x8 w :=
  congrArg (fun n => (decodeGroup8 0 0 n).isNone) (BitVec.eq_of_toNat_eq (by simp))

theorem unknownTail_mod_E (w : Nat) : unknownTail 0xE (w % 256) = unknownTail 0xE w :=
  congrArg (fun n => (decodeGroupE 0 n).isNone) (BitVec.eq_of_toNat_eq (by simp))

theorem unknownTail_mod_F (w : Nat) : unknownTail 0xF (w % 256) = unknownTail 0xF w :=
  congrArg (fun n => (decodeGroupF 0 n).isNone) (BitVec.eq_of_toNat_eq (by simp))

theorem count_unknownTail_5 : Nat.count (fun r => unknownTail 0x5 r = true) 4096 = 3840 := by
  rw [count_unknownTail_of_nibble unknownTail_mod_5]
  decide

theorem count_unknownTail_9 : Nat.count (fun r => unknownTail 0x9 r = true) 4096 = 3840 := by
  rw [count_unknownTail_of_nibble unknownTail_mod_9]
  decide

theorem count_unknownTail_8 : Nat.count (fun r => unknownTail 0x8 r = true) 4096 = 1792 := by
  rw [count_unknownTail_of_nibble unknownTail_mod_8]
  decide

theorem count_unknownTail_E : Nat.count (fun r => unknownTail 0xE r = true) 4096 = 4064 := by
  rw [count_unknownTail_of_byte unknownTail_mod_E]
  decide

theorem count_unknownTail_F : Nat.count (fun r => unknownTail 0xF r = true) 4096 = 3952 := by
  rw [count_unknownTail_of_byte unknownTail_mod_F]
  decide

/-- How many words of a group are unknown: none where the group has no sub-opcode. -/
def unknownInGroup : Nat → Nat
  | 0x0 => 4094
  | 0x5 | 0x9 => 3840
  | 0x8 => 1792
  | 0xE => 4064
  | 0xF => 3952
  | _ => 0

theorem count_unknownTail (ho : o < 16) : Nat.count (fun r => unknownTail o r = true) 4096 = unknownInGroup o := by
  match o, ho with
  | 0x0, _ => exact count_unknownTail_0
  | 0x5, _ => exact count_unknownTail_5
  | 0x8, _ => exact count_unknownTail_8
  | 0x9, _ => exact count_unknownTail_9
  | 0xE, _ => exact count_unknownTail_E
  | 0xF, _ => exact count_unknownTail_F
  | 0x1, _ | 0x2, _ | 0x3, _ | 0x4, _ | 0x6, _ | 0x7, _ | 0xA, _ | 0xB, _ | 0xC, _ | 0xD, _ =>
    exact Nat.count_iff_forall_not.2 fun _ _ => Bool.false_ne_true
  | o + 16, ho => omega

theorem count_isNone_decodeWord (ho : o < 16) :
    Nat.count (fun r => (decodeWord (BitVec.ofNat 16 (4096 * o + r))).isNone = true) 4096 = unknownInGroup o := by
  rw [← count_unknownTail ho]
  exact count_congr fun r hr => by rw [isNone_decodeWord_ofNat ho hr]

end Groups

/-- Settles O4: the words counted in the sixteen groups of the decision tree. -/
theorem unknownOpcodeCensus : Obligations.UnknownOpcodeCensus := by
  have hsum : ∑ o ∈ Finset.range 16, unknownInGroup o = 21582 := by decide
  have hcount := count_mul_eq_sum (fun w => (decodeWord (BitVec.ofNat 16 w)).isNone = true) 4096 16
  rw [Finset.sum_congr rfl fun _ ho => count_isNone_decodeWord (Finset.mem_range.1 ho), hsum, Nat.count,
    List.countP_eq_length_filter] at hcount
  simpa only [Obligations.UnknownOpcodeCensus, Bool.decide_eq_true] using hcount

end Sys2Proof
end

section
/-! PROOF. What the instructions with a check answer on each side of it, and the obligations about single instructions
(41_control_flow.md to 45_keys_timers.md). -/

namespace Sys2Proof.Machine

open Sys2Proof.Safety

/-! ### The block transfers, below and at the end of memory -/

section Blocks

variable {x : RegIx} {s : State}

theorem exec_stRegs_of_lt (h : s.i.toNat + x.toNat < 4096) : exec (.stRegs x) s = .next { s with
    mem := s.mem.writeBytes s.i.toNat (s.regsUpTo x), pc := s.pc + 2 } :=
  (storeRegs_false_eq x s).trans (if_pos h)

theorem exec_stRegs_of_le (h : 4096 ≤ s.i.toNat + x.toNat) :
    exec (.stRegs x) s = .next { s with fault := some .memoryOutOfBounds } :=
  (storeRegs_false_eq x s).trans (if_neg (Nat.not_lt.2 h))

theorem exec_ldRegs_of_lt (h : s.i.toNat + x.toNat < 4096) :
    exec (.ldRegs x) s = .next (s.loadRegs x s.i.toNat).advance := by
  rw [State.advance, State.loadRegs_pc]
  exact (loadRegs_false_eq x s).trans (if_pos h)

theorem exec_ldRegs_of_le (h : 4096 ≤ s.i.toNat + x.toNat) :
    exec (.ldRegs x) s = .next { s with fault := some .memoryOutOfBounds } :=
  (loadRegs_false_eq x s).trans (if_neg (Nat.not_lt.2 h))

/-- The bytes FX55 stores, read back at their addresses (R194). -/
theorem read_writeBytes_regsUpTo (m : Memory) (a : Nat) {k : RegIx} (h : k.toNat ≤ x.toNat) :
    (m.writeBytes a (s.regsUpTo x)).read (a + k.toNat) = s.reg k := by
  have hlen : k.toNat < (s.regsUpTo x).length := by
    rw [State.length_regsUpTo]
    omega
  exact (Memory.read_writeBytes_add m a hlen).trans (State.getElem_regsUpTo s x k h)

theorem read_writeBytes_regsUpTo_outside (m : Memory) {a a' : Nat} (h : a' < a ∨ a + x.toNat < a') :
    (m.writeBytes a (s.regsUpTo x)).read a' = m.read a' := by
  refine Memory.read_writeBytes_outside m a ?_
  rw [State.length_regsUpTo]
  omega

end Blocks

/-- Settles O45, from the two equations of FX55: the registers stand inside the stored block, every other address
outside it. -/
theorem storeRegisterBlock : Obligations.StoreRegisterBlock := by
  refine fun x s => ⟨decodeWord_encode (.stRegs x), fun h => ?_, exec_stRegs_of_le⟩
  exact ⟨_, exec_stRegs_of_lt h, fun _ => read_writeBytes_regsUpTo s.mem s.i.toNat,
    fun _ => read_writeBytes_regsUpTo_outside s.mem, rfl, changesOnly_memory_pc s _ _⟩

/-- Settles O46, from the two equations of FX65. -/
theorem loadRegisterBlock : Obligations.LoadRegisterBlock := by
  refine fun x s => ⟨decodeWord_encode (.ldRegs x), fun h => ?_, exec_ldRegs_of_le⟩
  refine ⟨_, exec_ldRegs_of_lt h, fun k => ?_, ?_, ?_⟩
  · rw [State.advance_reg, State.reg_loadRegs]
  · rw [State.advance_pc, State.loadRegs_pc]
  · simp [changesOnly_iff]

/-- Settles O47: the load reads the stored block at the addresses of the store. -/
theorem storedBlockLoadsBack : Obligations.StoredBlockLoadsBack := by
  refine fun x s h => ⟨_, exec_stRegs_of_lt h, fun u hi hmem => ?_⟩
  refine ⟨_, exec_ldRegs_of_lt (s := u) (by rwa [hi]), fun k hk => ?_⟩
  rw [State.advance_reg, State.reg_loadRegs, if_pos hk, hi, hmem]
  exact read_writeBytes_regsUpTo s.mem s.i.toNat hk

/-! ### The address register -/

/-- The sum of FX1E at width 12 (R191). -/
theorem toNat_indexSum_w12 (i : Word) (b : Byte) : (indexSum .w12 i b).toNat = (i.toNat + b.toNat) % 4096 := by
  rw [indexSum, BitVec.toNat_ofNat, truncationBits]
  omega

/-- The sum of FX1E at width 16 (R191). -/
theorem toNat_indexSum_w16 (i : Word) (b : Byte) : (indexSum .w16 i b).toNat = (i.toNat + b.toNat) % 65536 := by
  rw [indexSum, BitVec.toNat_ofNat, truncationBits]
  omega

/-- A glyph's address fits 16 bits. -/
theorem toNat_ofNat_mul_five {n : Nat} (h : n < 256) : (BitVec.ofNat 16 (5 * n)).toNat = 5 * n := by
  rw [BitVec.toNat_ofNat]
  omega

/-- A write of `i` and `pc` changes nothing else, whatever is written to them. -/
theorem changesOnly_index_pc (s : State) (a w : Word) : ChangesOnly [.index, .pc] s { s with i := a, pc := w } := by
  simp [changesOnly_iff, State.reg]

/-- Settles O42: the sum and the flag are computed from the values before the step. -/
theorem addToIndexRegister : Obligations.AddToIndexRegister := by
  refine fun x s => ⟨decodeWord_encode (.addI x), _, rfl, toNat_indexSum_w12 s.i (s.reg x), fun k => ?_, rfl, ?_⟩
  · simp only [addIndex, State.advance_reg, State.reg_setReg, vf, apply_ite BitVec.toNat, toNat_flagByte, indexCarry,
      decide_eq_true_eq]
    rfl
  · simp [changesOnly_iff, addIndex]

/-- Settles O43, from the law of FX29 under the fault policy. -/
theorem glyphAddressIsFiveTimesTheDigit : Obligations.GlyphAddressIsFiveTimesTheDigit := by
  refine fun x s => ⟨decodeWord_encode (.ldF x), fun h => ?_, fun h => ?_⟩
  · exact ⟨_, (loadGlyph_fault_eq x s).trans (if_pos h), toNat_ofNat_mul_five (s.reg x).isLt, rfl,
      changesOnly_index_pc s _ _⟩
  · exact (loadGlyph_fault_eq x s).trans (if_neg (Nat.not_le.2 h))

/-! ### Control transfer, arithmetic and logic -/

/-- Settles O34: the slot the call writes is the one the return reads. -/
theorem callThenReturnComesBack : Obligations.CallThenReturnComesBack := by
  refine fun nnn s hs => ⟨_, exec_call_of_sp_ne_bound nnn hs, fun u hsp hstack => ?_⟩
  have hval : u.sp.val = s.sp.val + 1 := congrArg Fin.val hsp
  refine ⟨_, exec_ret_of_sp_ne_zero (s := u) (by omega), ?_, Fin.ext ?_⟩
  · simp [hstack, hval]
  · simp [hval]

/-- Settles O37: each of the four ends in `State.finish` with a sum or a bitwise result. -/
theorem addImmediateAndLogicLeaveVF : Obligations.AddImmediateAndLogicLeaveVF := by
  intro x y nn s
  refine ⟨⟨decodeWord_encode (.addImm x nn), _, rfl, ?_⟩, ⟨decodeWord_encode (.orReg x y), _, rfl, ?_⟩,
    ⟨decodeWord_encode (.andReg x y), _, rfl, ?_⟩, ⟨decodeWord_encode (.xorReg x y), _, rfl, ?_⟩⟩
  · rw [← toNat_sumResult]
    exact writesRegister_finish ..
  · rw [← BitVec.toNat_or]
    exact writesRegister_finish ..
  · rw [← BitVec.toNat_and]
    exact writesRegister_finish ..
  · rw [← BitVec.toNat_xor]
    exact writesRegister_finish ..

/-- Settles O40: the byte is `State.randomByte`, whose two laws say where it comes from. -/
theorem randomMasksAFreshByte : Obligations.RandomMasksAFreshByte := by
  refine fun x nn s => ⟨decodeWord_encode (.rnd x nn), s.tookRandom.finish x (s.randomByte &&& nn), s.randomByte, rfl,
    ?_, fun k hk => ?_, fun c cs hscript => ?_, fun hscript => ?_, rfl, rfl, ?_⟩
  · rw [State.reg_finish, if_pos rfl]
  · rw [State.reg_finish, if_neg hk, State.tookRandom_reg]
  · exact ⟨randomByte_of_script hscript, by simp [hscript]⟩
  · exact ⟨randomByte_of_nil hscript, by simp [hscript]⟩
  · simp [changesOnly_iff]

/-! ### The display -/

/-- Settles O48. -/
theorem clearScreenSetsTheDrawFlag : Obligations.ClearScreenSetsTheDrawFlag :=
  ⟨decodeWord_encode .cls, fun s => ⟨_, rfl, pixel_blankScreen, rfl, rfl, by simp [changesOnly_iff, State.reg]⟩⟩

section Drw

variable {x y : RegIx} {n : Nibble} {s : State}

/-- The sprite of DXYN drawn on the screen of a state (R212). -/
def drawnSprite (x y : RegIx) (n : Nibble) (s : State) : Screen × Bool :=
  draw s.fb (s.reg x).toNat (s.reg y).toNat (s.mem.readBytes s.i.toNat n.toNat)

theorem exec_drw_of_inBounds (h : inBounds s.i.toNat n.toNat = true) : exec (.drw x y n) s = .next
    ({ s with fb := (drawnSprite x y n s).1, drawFlag := true }.setReg vf (flagByte (drawnSprite x y n s).2)).advance :=
  if_pos h

theorem exec_drw_of_outOfBounds (h : inBounds s.i.toNat n.toNat = false) :
    exec (.drw x y n) s = .next { s with fault := some .memoryOutOfBounds } :=
  if_neg (Bool.eq_false_iff.1 h)

end Drw

/-- Settles O52, from the two equations of DXYN: the rows are the bytes `Memory.readBytes` gives. -/
theorem drawInstructionDrawsFromMemory : Obligations.DrawInstructionDrawsFromMemory := by
  refine fun x y n s => ⟨decodeWord_encode (.drw x y n), fun h => ?_, fun hn hi => ?_⟩
  · have hin : inBounds s.i.toNat n.toNat = true := (inBounds_iff _ _).2 (by omega)
    refine ⟨_, s.mem.readBytes s.i.toNat n.toNat, exec_drw_of_inBounds hin, Memory.length_readBytes .., fun r hr => ?_,
      rfl, fun k => ?_, rfl, rfl, ?_⟩
    · rw [List.getElem?_eq_getElem (by simpa using hr), Memory.getElem_readBytes]
    · rw [State.advance_reg, State.reg_setReg, apply_ite BitVec.toNat, toNat_flagByte]
      rfl
    · simp [changesOnly_iff]
  · exact exec_drw_of_outOfBounds ((inBounds_eq_false_iff _ _).2 ⟨hn, hi⟩)

/-! ### A sprite drawn twice -/

section DrawnTwice

variable {c : Nat → Nat → Prop} {acc acc' acc'' : Screen × Bool} {flag : Bool}

/-- Two draws over the same pixels give the screen back. -/
theorem FlipsOver.restores (h : FlipsOver c acc acc') (h' : FlipsOver c (acc'.1, flag) acc'') :
    acc''.1 = acc.1 := by
  refine Screen.ext_pixel fun x hx y hy => ?_
  obtain ⟨hflip, hkeep⟩ := h.1 x hx y hy
  obtain ⟨hflip', hkeep'⟩ := h'.1 x hx y hy
  by_cases hc : c x y
  · rw [hflip' hc, hflip hc, Bool.not_not]
  · rw [hkeep' hc, hkeep hc]

/-- A second draw over the same pixels meets a set one where the first met a clear one. -/
theorem FlipsOver.set_iff_clear_before (h : FlipsOver c acc acc') {x y : Nat} (hx : x < 64) (hy : y < 32) :
    c x y ∧ pixel acc'.1 x y = true ↔ c x y ∧ pixel acc.1 x y = false := by
  refine and_congr_right fun hc => ?_
  rw [(h.1 x hx y hy).1 hc, Bool.not_eq_true']

end DrawnTwice

/-- A byte that is not 0 has a bit that is 1. -/
theorem exists_getLsbD_of_ne_zero {row : Byte} (h : row ≠ 0) : ∃ b < 8, row.getLsbD (7 - b) = true := by
  by_contra hnone
  refine h (BitVec.eq_of_getLsbD_eq fun k hk => ?_)
  have hbit : row.getLsbD (7 - (7 - k)) ≠ true := fun hbit => hnone ⟨7 - k, by omega, hbit⟩
  rw [show 7 - (7 - k) = k by omega] at hbit
  simpa using hbit

/-- A sprite with a bit that is 1 covers a pixel of the screen, and only such a sprite does. -/
theorem exists_spriteCovers_iff {x0 y0 : Nat} {rows : List Byte} :
    (∃ x < 64, ∃ y < 32, SpriteCovers x0 y0 rows x y) ↔ ∃ row ∈ rows, row ≠ 0 := by
  constructor
  · rintro ⟨x, -, y, -, r, b, hr, -, hbit, -⟩
    refine ⟨rows[r], List.getElem_mem hr, fun hzero => ?_⟩
    simp [hzero] at hbit
  · rintro ⟨row, hrow, hne⟩
    obtain ⟨r, hr, rfl⟩ := List.getElem_of_mem hrow
    obtain ⟨b, hb, hbit⟩ := exists_getLsbD_of_ne_zero hne
    exact ⟨(x0 + b) % 64, Nat.mod_lt _ (by decide), (y0 + r) % 32, Nat.mod_lt _ (by decide),
      r, b, hr, hb, hbit, rfl, rfl⟩

/-- Settles O51: both draws flip the pixels the sprite covers, so the second meets a set pixel where the first met a
clear one. -/
theorem drawingTwiceRestoresTheScreen : Obligations.DrawingTwiceRestoresTheScreen := by
  intro fb x0 y0 rows hlen
  have hfirst := flipsOver_draw fb x0 y0 hlen
  have hsecond := flipsOver_draw (draw fb x0 y0 rows).1 x0 y0 hlen
  have hcollides : (draw (draw fb x0 y0 rows).1 x0 y0 rows).2 = true ↔
      ∃ x < 64, ∃ y < 32, SpriteCovers x0 y0 rows x y ∧ pixel fb x y = false :=
    (hsecond.2.trans (or_iff_right Bool.false_ne_true)).trans <|
      exists_congr fun _ => and_congr_right fun hx => exists_congr fun _ => and_congr_right fun hy =>
        hfirst.set_iff_clear_before hx hy
  refine ⟨hfirst.restores hsecond, hcollides, fun h => ?_, fun hno hbit => hcollides.2 ?_⟩
  · obtain ⟨x, hx, y, hy, hcov, -⟩ := hcollides.1 h
    exact exists_spriteCovers_iff.1 ⟨x, hx, y, hy, hcov⟩
  · obtain ⟨x, hx, y, hy, hcov⟩ := exists_spriteCovers_iff.2 hbit
    refine ⟨x, hx, y, hy, hcov, Bool.eq_false_iff.2 fun hset => ?_⟩
    exact Bool.eq_false_iff.1 hno (hfirst.2.2 (.inr ⟨x, hx, y, hy, hcov, hset⟩))

/-! ### Keys and timers -/

section Keys

variable {x : RegIx} {s : State}

/-- The key an operand in range names (R236). -/
theorem pressed_ofNat {n : Nat} (h : n ≤ 0x0F) : s.pressed (BitVec.ofNat 4 n) = s.key.getLsbD n := by
  rw [State.pressed, BitVec.toNat_ofNat, Nat.mod_eq_of_lt (by omega)]

theorem exec_ldVxK_of_none (h : s.pickedKey = none) : exec (.ldVxK x) s = .next s := by
  rw [exec, execLdVxK, h]

theorem exec_ldVxK_of_some {k : Nibble} (h : s.pickedKey = some k) :
    exec (.ldVxK x) s = .next (s.drawn.finish x (k.setWidth 8)) := by
  rw [exec, execLdVxK, h]
  rfl

end Keys

/-- Settles O53, from the laws of the two skips under the fault policy. -/
theorem keySkipsReadTheLatch : Obligations.KeySkipsReadTheLatch := by
  refine fun x s => ⟨⟨decodeWord_encode (.skp x), decodeWord_encode (.sknp x)⟩, fun h => ⟨?_, ?_⟩, fun h => ⟨?_, ?_⟩⟩
  · refine ⟨_, (skipPressed_fault_eq x s).trans (if_pos h), skipsWhen_skipIf s ?_⟩
    rw [pressed_ofNat h]
  · refine ⟨_, (skipNotPressed_fault_eq x s).trans (if_pos h), skipsWhen_skipIf s ?_⟩
    rw [pressed_ofNat h, Bool.not_eq_true']
  · exact (skipPressed_fault_eq x s).trans (if_neg (Nat.not_le.2 h))
  · exact (skipNotPressed_fault_eq x s).trans (if_neg (Nat.not_le.2 h))

/-- Settles O54: the pick is nothing exactly when no key is pressed, and else a pressed key. -/
theorem waitForKeyStuttersOrTakesAKey : Obligations.WaitForKeyStuttersOrTakesAKey := by
  refine fun x s => ⟨decodeWord_encode (.ldVxK x), fun h => exec_ldVxK_of_none ((pickedKey_eq_none_iff s).2 h),
    fun h => ?_⟩
  obtain ⟨k, hk⟩ := Option.ne_none_iff_exists'.1 (mt (pickedKey_eq_none_iff s).1 h)
  refine ⟨_, k.toNat, exec_ldVxK_of_some hk, k.isLt, pickedKey_pressed hk, fun r => ?_, rfl, rfl, rfl, ?_⟩
  · rw [State.reg_finish, apply_ite BitVec.toNat, BitVec.toNat_setWidth_of_le (by decide), State.drawn_reg]
  · simp [changesOnly_iff]

/-- Settles O55. -/
theorem timerInstructionsMoveBytes : Obligations.TimerInstructionsMoveBytes := fun x s =>
  ⟨⟨decodeWord_encode (.ldVxDt x), _, rfl, writesRegister_finish s x s.dt⟩,
    ⟨decodeWord_encode (.ldDtVx x), _, rfl, rfl, rfl, by simp [changesOnly_iff, State.reg]⟩,
    ⟨decodeWord_encode (.ldStVx x), _, rfl, rfl, rfl, by simp [changesOnly_iff, State.reg]⟩⟩

/-! ### The alternative policies -/

section Policies

variable {x : RegIx} {s : State}

/-- From a legal `i` the sum fits 16 bits, and 12 bits unless VF is set (R191). -/
theorem indexSum_ne_iff {i : Word} {b : Byte} (hi : i.toNat ≤ 0x0FFF) :
    indexSum .w12 i b ≠ indexSum .w16 i b ↔ 0x0FFF < i.toNat + b.toNat := by
  have hb := b.isLt
  rw [← BitVec.toNat_ne_iff_ne, toNat_indexSum_w12, toNat_indexSum_w16]
  omega

/-- The key the low four bits of an operand name (R236). -/
theorem pressed_extractLsb' (b : Byte) : s.pressed (b.extractLsb' 0 4) = s.key.getLsbD (b.toNat % 16) := by
  simp [State.pressed]

/-- `i` after a block transfer that adds X + 1 to it (R194). -/
theorem toNat_add_setWidth_add_one {i : Word} (h : i.toNat + x.toNat < 4096) :
    (i + x.setWidth 16 + 1).toNat = i.toNat + x.toNat + 1 := by
  have hx : (x.setWidth 16).toNat = x.toNat := BitVec.toNat_setWidth_of_le (by decide)
  simp only [BitVec.toNat_add, hx, BitVec.reduceToNat]
  omega

theorem storeRegs_true_of_lt (h : s.i.toNat + x.toNat < 4096) : storeRegs true x s = .next { s with
    mem := s.mem.writeBytes s.i.toNat (s.regsUpTo x), i := s.i + x.setWidth 16 + 1, pc := s.pc + 2 } :=
  (storeRegs_true_eq x s).trans (if_pos h)

theorem loadRegs_true_of_lt (h : s.i.toNat + x.toNat < 4096) : loadRegs true x s = .next
    { (s.loadRegs x s.i.toNat).advance with i := s.i + x.setWidth 16 + 1 } := by
  simpa only [State.advance, State.loadRegs_pc] using (loadRegs_true_eq x s).trans (if_pos h)

end Policies

/-- Settles O56: the shared operations under each policy, beside those under the spec's own. -/
theorem alternativePoliciesAreTheSpecs : Obligations.AlternativePoliciesAreTheSpecs := by
  refine ⟨fun x s => ⟨⟨_, rfl, toNat_indexSum_w16 s.i (s.reg x)⟩, fun hi => ⟨?_, indexSum_ne_iff hi⟩⟩,
    fun x s => ?_, fun x s => ⟨fun h => ?_, fun h => ?_⟩, fun op s => ⟨_, rfl, rfl, changesOnly_pc s _, rfl, rfl⟩⟩
  · have hb := (s.reg x).isLt
    exact (toNat_indexSum_w16 s.i (s.reg x)).trans (Nat.mod_eq_of_lt (by omega))
  · refine ⟨⟨_, rfl, skipsWhen_skipIf s ?_⟩, ⟨_, rfl, skipsWhen_skipIf s ?_⟩, ⟨_, rfl, ?_, rfl, ?_⟩,
      ⟨_, rfl, ?_, rfl, ?_⟩, rfl, rfl⟩
    · rw [pressed_extractLsb']
    · rw [pressed_extractLsb', Bool.not_eq_true']
    · exact toNat_ofNat_mul_five (by omega)
    · exact changesOnly_index_pc s _ _
    · exact toNat_ofNat_mul_five (s.reg x).isLt
    · exact changesOnly_index_pc s _ _
  · exact ⟨⟨_, _, exec_stRegs_of_lt h, storeRegs_true_of_lt h, toNat_add_setWidth_add_one h⟩,
      ⟨_, _, exec_ldRegs_of_lt h, loadRegs_true_of_lt h, toNat_add_setWidth_add_one h⟩⟩
  · exact ⟨(storeRegs_true_eq x s).trans (if_neg (Nat.not_lt.2 h)),
      (loadRegs_true_eq x s).trans (if_neg (Nat.not_lt.2 h))⟩

end Sys2Proof.Machine
end

section
/-! PROOF. What an instruction may change and when it may raise, said once for all of them; with it the obligations
about totality, the causes of a fatal condition, the writers of each element and the readers of the inputs
(10_state.md R20 to R22, 40_step_cycle.md R125, R128, R129, 60_exceptions.md R257). -/

namespace Sys2Proof.Machine

open Sys2Proof.Safety

/-- The parts of the state an instruction writes when it completes (10_state.md R20, its column of writers). -/
def writtenParts : Instr → List Part
  | .jp _ | .jpV0 _ | .seImm _ _ | .sneImm _ _ | .seReg _ _ | .sneReg _ _ | .skp _ | .sknp _ => [.pc]
  | .ret => [.sp, .pc]
  | .call _ => [.stack, .sp, .pc]
  | .ldImm _ _ | .addImm _ _ | .ldReg _ _ | .orReg _ _ | .andReg _ _ | .xorReg _ _ | .addReg _ _ | .sub _ _
  | .shr _ _ | .subn _ _ | .shl _ _ | .ldVxDt _ | .ldRegs _ => [.registers, .pc]
  | .rnd _ _ | .ldVxK _ => [.registers, .random, .pc]
  | .ldI _ | .ldF _ => [.index, .pc]
  | .addI _ => [.index, .registers, .pc]
  | .ldB _ | .stRegs _ => [.memory, .pc]
  | .cls => [.screen, .drawFlag, .pc]
  | .drw _ _ _ => [.screen, .drawFlag, .registers, .pc]
  | .ldDtVx _ => [.delayTimer, .pc]
  | .ldStVx _ => [.soundTimer, .pc]

/-- The fatal condition an instruction raises at a state, and its cause (60_exceptions.md R257). -/
def HasCause (i : Instr) (s : State) (f : Fault) : Prop :=
  match i with
  | .call _ => f = .stackOverflow ∧ s.sp.val = 16
  | .ret => f = .stackUnderflow ∧ s.sp.val = 0
  | .drw _ _ n => f = .memoryOutOfBounds ∧ 1 ≤ n.toNat ∧ 4096 ≤ s.i.toNat + n.toNat - 1
  | .ldB _ => f = .memoryOutOfBounds ∧ 4096 ≤ s.i.toNat + 2
  | .stRegs x | .ldRegs x => f = .memoryOutOfBounds ∧ 4096 ≤ s.i.toNat + x.toNat
  | .skp x | .sknp x | .ldF x => f = .operandOutOfRange (encode i) ∧ 0x0F < (s.reg x).toNat
  | _ => False

/-- An operation at `s` completes and writes the listed parts alone, or it raises a fatal condition with its cause. -/
def Answers (parts : List Part) (cause : Fault → Prop) (s : State) (r : Result) : Prop :=
  (∃ t, r = .next t ∧ ChangesOnly parts s t) ∨ ∃ f, r = raise f s ∧ cause f

section Answers

variable {parts : List Part} {cause : Fault → Prop} {s t : State} {r : Result} {f : Fault}

theorem Answers.completes (h : ChangesOnly parts s t) : Answers parts cause s (.next t) := .inl ⟨t, rfl, h⟩

/-- The shape of the laws in Laws/Ops.lean: the parts are written under the check, the latch is loaded without it. -/
theorem Answers.of_check {c : Prop} [Decidable c] (hr : r = if c then .next t else raise f s)
    (ht : ChangesOnly parts s t) (hf : ¬c → cause f) : Answers parts cause s r := by
  by_cases hc : c
  · rw [hr, if_pos hc]
    exact .completes ht
  · exact .inr ⟨f, by rw [hr, if_neg hc], hf hc⟩

end Answers

/-! ### Every instruction -/

theorem changesOnly_finish (s : State) (x : RegIx) (r : Byte) : ChangesOnly [.registers, .pc] s (s.finish x r) :=
  (writesRegister_finish s x r).2.2

theorem changesOnly_finishFlag (s : State) (x : RegIx) (r : Byte) (f : Bool) :
    ChangesOnly [.registers, .pc] s (s.finishFlag x r f) :=
  (writesResultThenFlag_finishFlag s x r f).2.2

theorem exec_ret_answers (s : State) : Answers (writtenParts .ret) (HasCause .ret s) s (exec .ret s) := by
  by_cases h : s.sp.val = 0
  · exact .inr ⟨_, exec_ret_of_sp_eq_zero h, rfl, h⟩
  · rw [exec_ret_of_sp_ne_zero h]
    exact .completes (by simp [changesOnly_iff, writtenParts, State.reg])

theorem exec_call_answers (nnn : Addr) (s : State) :
    Answers (writtenParts (.call nnn)) (HasCause (.call nnn) s) s (exec (.call nnn) s) := by
  by_cases h : s.sp.val = 16
  · exact .inr ⟨_, exec_call_of_sp_eq_bound nnn h, rfl, h⟩
  · rw [exec_call_of_sp_ne_bound nnn h]
    exact .completes (by simp [changesOnly_iff, writtenParts, State.reg])

theorem exec_ldVxK_answers (x : RegIx) (s : State) :
    Answers (writtenParts (.ldVxK x)) (HasCause (.ldVxK x) s) s (exec (.ldVxK x) s) := by
  cases hk : s.pickedKey with
  | none =>
    rw [exec_ldVxK_of_none hk]
    exact .completes (by simp [changesOnly_iff])
  | some k =>
    rw [exec_ldVxK_of_some hk]
    exact .completes (by simp [changesOnly_iff, writtenParts])

/-- Every instruction completes and writes its own parts alone, or raises a fatal condition of its own. -/
theorem exec_answers (i : Instr) (s : State) : Answers (writtenParts i) (HasCause i s) s (exec i s) := by
  cases i with
  | jp | jpV0 | seImm | sneImm | seReg | sneReg => exact .completes (changesOnly_pc s _)
  | ldImm | addImm | ldReg | orReg | andReg | xorReg | ldVxDt => exact .completes (changesOnly_finish s _ _)
  | addReg | sub | shr | subn | shl => exact .completes (changesOnly_finishFlag s _ _ _)
  | cls | ldI | addI | ldDtVx | ldStVx | rnd =>
    exact .completes (by simp [changesOnly_iff, writtenParts, addIndex, State.reg])
  | ret => exact exec_ret_answers s
  | call nnn => exact exec_call_answers nnn s
  | ldVxK x => exact exec_ldVxK_answers x s
  | skp x => exact .of_check (skipPressed_fault_eq x s) (changesOnly_pc s _) fun h => ⟨rfl, Nat.lt_of_not_le h⟩
  | sknp x => exact .of_check (skipNotPressed_fault_eq x s) (changesOnly_pc s _) fun h => ⟨rfl, Nat.lt_of_not_le h⟩
  | ldF x =>
    exact .of_check (loadGlyph_fault_eq x s) (by simp [changesOnly_iff, writtenParts, State.reg]) fun h =>
      ⟨rfl, Nat.lt_of_not_le h⟩
  | ldB x =>
    exact .of_check (storeAtIndex_eq (decimalDigits (s.reg x)) s) (changesOnly_memory_pc s _ _) fun h =>
      ⟨rfl, by simp only [decimalDigits, List.length_cons, List.length_nil] at h; omega⟩
  | stRegs x =>
    exact .of_check (storeRegs_false_eq x s) (changesOnly_memory_pc s _ _) fun h => ⟨rfl, Nat.le_of_not_lt h⟩
  | ldRegs x =>
    exact .of_check (loadRegs_false_eq x s) (by simp [changesOnly_iff, writtenParts]) fun h => ⟨rfl, Nat.le_of_not_lt h⟩
  | drw x y n =>
    refine .of_check rfl (by simp [changesOnly_iff, writtenParts]) fun h => ⟨rfl, ?_⟩
    exact (inBounds_eq_false_iff _ _).1 (Bool.eq_false_of_not_eq_true h)

section Writers

variable {i : Instr} {s t : State} {p : Part}

/-- No instruction that completes writes the fault latch. -/
theorem faultLatch_notMem_writtenParts (i : Instr) : .faultLatch ∉ writtenParts i := by
  cases i <;> simp [writtenParts]

/-- Taking a fatal condition changes the latch alone (R258). -/
theorem changesOnly_raise (f : Fault) (s : State) : ChangesOnly [.faultLatch] s { s with fault := some f } := by
  simp [changesOnly_iff, State.reg]

/-- A part other than the latch that an instruction changed is one that it writes. -/
theorem mem_writtenParts_of_change (h : exec i s = .next t) (hp : p ≠ .faultLatch) (hchange : ¬SamePart p s t) :
    p ∈ writtenParts i := by
  by_contra hnot
  obtain ⟨t', h', hframe⟩ | ⟨f, h', -⟩ := exec_answers i s
  · cases h.symm.trans h'
    exact hchange (hframe p hnot)
  · cases h.symm.trans h'
    exact hchange (changesOnly_raise f s p (by simpa using hp))

/-- A latch that an instruction loads has its cause. -/
theorem hasCause_of_fault {f : Fault} (h : exec i s = .next t) (hs : s.fault = none) (hf : t.fault = some f) :
    HasCause i s f := by
  obtain ⟨t', h', hframe⟩ | ⟨f', h', hcause⟩ := exec_answers i s
  · cases h.symm.trans h'
    have hkept : t.fault = s.fault := hframe .faultLatch (faultLatch_notMem_writtenParts i)
    rw [hkept, hs] at hf
    cases hf
  · cases h.symm.trans h'
    cases hf
    exact hcause

/-- A latch that is loaded stays loaded. -/
theorem exec_keeps_fault (h : exec i s = .next t) (hs : s.fault ≠ none) : t.fault ≠ none := by
  obtain ⟨t', h', hkept⟩ | ⟨f, h'⟩ := exec_completesOrRaises i s
  · cases h.symm.trans h'
    rwa [hkept]
  · cases h.symm.trans h'
    exact Option.some_ne_none f

/-! ### The writers of each part -/

theorem index_mem_writtenParts (h : .index ∈ writtenParts i) :
    (∃ nnn, i = .ldI nnn) ∨ ∃ x, i = .addI x ∨ i = .ldF x := by
  cases i <;> simp [writtenParts] at h ⊢

theorem sp_mem_writtenParts (h : .sp ∈ writtenParts i) : i = .ret ∨ ∃ nnn, i = .call nnn := by
  cases i <;> simp [writtenParts] at h ⊢

theorem stack_mem_writtenParts (h : .stack ∈ writtenParts i) : ∃ nnn, i = .call nnn := by
  cases i <;> simp [writtenParts] at h ⊢

theorem memory_mem_writtenParts (h : .memory ∈ writtenParts i) : ∃ x, i = .ldB x ∨ i = .stRegs x := by
  cases i <;> simp [writtenParts] at h ⊢

theorem screen_mem_writtenParts (h : .screen ∈ writtenParts i) : i = .cls ∨ ∃ x y n, i = .drw x y n := by
  cases i <;> simp [writtenParts] at h ⊢

theorem drawFlag_mem_writtenParts (h : .drawFlag ∈ writtenParts i) : i = .cls ∨ ∃ x y n, i = .drw x y n := by
  cases i <;> simp [writtenParts] at h ⊢

theorem delayTimer_mem_writtenParts (h : .delayTimer ∈ writtenParts i) : ∃ x, i = .ldDtVx x := by
  cases i <;> simp [writtenParts] at h ⊢

theorem soundTimer_mem_writtenParts (h : .soundTimer ∈ writtenParts i) : ∃ x, i = .ldStVx x := by
  cases i <;> simp [writtenParts] at h ⊢

theorem keys_notMem_writtenParts (i : Instr) : .keys ∉ writtenParts i := by
  cases i <;> simp [writtenParts]

theorem random_mem_writtenParts (h : .random ∈ writtenParts i) : (∃ x nn, i = .rnd x nn) ∨ ∃ x, i = .ldVxK x := by
  cases i <;> simp [writtenParts] at h ⊢

/-- An instruction may set the draw flag and never clears it. -/
theorem drawFlag_eq_true_of_change (h : exec i s = .next t) (hchange : t.drawFlag ≠ s.drawFlag) :
    t.drawFlag = true := by
  obtain rfl | ⟨x, y, n, rfl⟩ := drawFlag_mem_writtenParts (mem_writtenParts_of_change h nofun hchange)
  · cases h
    rfl
  · cases hin : inBounds s.i.toNat n.toNat with
    | true =>
      cases h.symm.trans (exec_drw_of_inBounds hin)
      rfl
    | false =>
      cases h.symm.trans (exec_drw_of_outOfBounds hin)
      exact absurd rfl hchange

theorem exec_ldVxK_script {x : RegIx} (h : exec (.ldVxK x) s = .next t) : t.script = s.script := by
  cases hk : s.pickedKey with
  | none => cases h.symm.trans (exec_ldVxK_of_none hk); rfl
  | some k => cases h.symm.trans (exec_ldVxK_of_some hk); rfl

end Writers

/-! ### The obligations -/

/-- Settles O11: a step that completes or raises answers a next state, and there is nothing else it can do. -/
theorem stepAlwaysAnswersANextState : Obligations.StepAlwaysAnswersANextState := by
  intro s
  obtain ⟨t, h, -⟩ | ⟨f, h⟩ := step_completesOrRaises s
  · exact ⟨t, h⟩
  · exact ⟨_, h⟩

/-- Settles O12: the causes of `HasCause`, by the kind of the fault. -/
theorem fatalConditionsHaveTheirCauses : Obligations.FatalConditionsHaveTheirCauses := by
  intro i s t f hs hexec hf
  have hcause := hasCause_of_fault hexec hs hf
  cases i with
  | call nnn => exact .inl ⟨hcause.1, ⟨nnn, rfl⟩, hcause.2⟩
  | ret => exact .inr (.inl ⟨hcause.1, rfl, hcause.2⟩)
  | drw x y n => exact .inr (.inr (.inl ⟨hcause.1, .inl ⟨x, y, n, rfl, hcause.2⟩⟩))
  | ldB x => exact .inr (.inr (.inl ⟨hcause.1, .inr (.inl ⟨x, rfl, hcause.2⟩)⟩))
  | stRegs x => exact .inr (.inr (.inl ⟨hcause.1, .inr (.inr ⟨x, .inl rfl, hcause.2⟩)⟩))
  | ldRegs x => exact .inr (.inr (.inl ⟨hcause.1, .inr (.inr ⟨x, .inr rfl, hcause.2⟩)⟩))
  | skp x => exact .inr (.inr (.inr ⟨hcause.1, x, .inl rfl, hcause.2⟩))
  | sknp x => exact .inr (.inr (.inr ⟨hcause.1, x, .inr (.inl rfl), hcause.2⟩))
  | ldF x => exact .inr (.inr (.inr ⟨hcause.1, x, .inr (.inr rfl), hcause.2⟩))
  | cls | jp | jpV0 | seImm | sneImm | seReg | sneReg | ldImm | addImm | ldReg | orReg | andReg | xorReg | addReg
  | sub | shr | subn | shl | ldI | rnd | ldVxDt | ldVxK | ldDtVx | ldStVx | addI => exact hcause.elim

/-- Settles O17: a part that changed is one of the parts written, and those name the instruction. -/
theorem elementsChangeOnlyByTheirWriters : Obligations.ElementsChangeOnlyByTheirWriters := by
  intro i s t h
  have hwrites {p : Part} (hp : p ≠ .faultLatch) (hchange : ¬SamePart p s t) : p ∈ writtenParts i :=
    mem_writtenParts_of_change h hp hchange
  refine ⟨fun hc => index_mem_writtenParts (hwrites nofun hc), fun hc => sp_mem_writtenParts (hwrites nofun hc),
    fun hc => stack_mem_writtenParts (hwrites nofun hc), fun hc => memory_mem_writtenParts (hwrites nofun ?_),
    fun hc => screen_mem_writtenParts (hwrites nofun hc),
    fun hc => ⟨drawFlag_eq_true_of_change h hc, drawFlag_mem_writtenParts (hwrites nofun hc)⟩,
    fun hc => delayTimer_mem_writtenParts (hwrites nofun hc),
    fun hc => soundTimer_mem_writtenParts (hwrites nofun hc), ?_, exec_keeps_fault h⟩
  · exact not_forall.2 hc
  · by_contra hc
    exact keys_notMem_writtenParts i (hwrites (p := .keys) nofun hc)

/-- Settles O57: CXNN and FX0A are the writers of the random source, and FX0A keeps the host's bytes. -/
theorem randomSourceChangesOnlyByItsReaders : Obligations.RandomSourceChangesOnlyByItsReaders := by
  intro i s t h
  have hreader (hc : ¬SamePart .random s t) : (∃ x nn, i = .rnd x nn) ∨ ∃ x, i = .ldVxK x :=
    random_mem_writtenParts (mem_writtenParts_of_change h nofun hc)
  refine ⟨fun hscript => ?_, fun hdraws => hreader fun hsame => hdraws hsame.2⟩
  obtain hrnd | ⟨x, rfl⟩ := hreader fun hsame => hscript hsame.1
  · exact hrnd
  · exact absurd (exec_ldVxK_script h) hscript

/-! ### Registers -/

section Registers

variable {i : Instr} {s t : State}

theorem exec_keeps_reg_of_notMem (h : exec i s = .next t) (hparts : .registers ∉ writtenParts i) (k : RegIx) :
    t.reg k = s.reg k := by
  by_contra hk
  exact hparts (mem_writtenParts_of_change h nofun fun hsame => hk (hsame k))

theorem exec_ldVxK_keeps_reg {x k : RegIx} (h : exec (.ldVxK x) s = .next t) (hk : k ≠ x) : t.reg k = s.reg k := by
  cases hpick : s.pickedKey with
  | none =>
    obtain rfl := Host.Outcome.next.inj (h.symm.trans (exec_ldVxK_of_none hpick))
    rfl
  | some key =>
    obtain rfl := Host.Outcome.next.inj (h.symm.trans (exec_ldVxK_of_some hpick))
    rw [State.reg_finish, if_neg hk, State.drawn_reg]

theorem exec_ldRegs_keeps_reg {x k : RegIx} (h : exec (.ldRegs x) s = .next t) (hk : ¬k.toNat ≤ x.toNat) :
    t.reg k = s.reg k := by
  by_cases hin : s.i.toNat + x.toNat < 4096
  · obtain rfl := Host.Outcome.next.inj (h.symm.trans (exec_ldRegs_of_lt hin))
    rw [State.advance_reg, State.reg_loadRegs, if_neg hk]
  · obtain rfl := Host.Outcome.next.inj (h.symm.trans (exec_ldRegs_of_le (Nat.not_lt.1 hin)))
    rfl

theorem exec_drw_keeps_reg {x y k : RegIx} {n : Nibble} (h : exec (.drw x y n) s = .next t) (hk : k ≠ 0xF#4) :
    t.reg k = s.reg k := by
  cases hin : inBounds s.i.toNat n.toNat with
  | true =>
    obtain rfl := Host.Outcome.next.inj (h.symm.trans (exec_drw_of_inBounds hin))
    exact State.reg_setReg_ne _ _ hk
  | false =>
    obtain rfl := Host.Outcome.next.inj (h.symm.trans (exec_drw_of_outOfBounds hin))
    rfl

/-- A register that an instruction may not write keeps its value. -/
theorem exec_keeps_reg {k : RegIx} (h : exec i s = .next t) (hk : ¬mayWriteRegister i k = true) :
    t.reg k = s.reg k := by
  cases i with
  | jp | jpV0 | seImm | sneImm | seReg | sneReg | skp | sknp | ret | call | ldI | ldF | ldB | stRegs | cls | ldDtVx
  | ldStVx => exact exec_keeps_reg_of_notMem h (by simp [writtenParts]) k
  | ldImm | addImm | ldReg | orReg | andReg | xorReg | rnd | ldVxDt =>
    simp only [mayWriteRegister, beq_iff_eq] at hk
    cases h
    exact (State.reg_finish _ _ _ _).trans (if_neg hk)
  | addReg | sub | shr | subn | shl =>
    simp only [mayWriteRegister, Bool.or_eq_true, beq_iff_eq, not_or] at hk
    cases h
    rw [State.reg_finishFlag, if_neg hk.2, if_neg hk.1]
  | addI =>
    simp only [mayWriteRegister, beq_iff_eq] at hk
    cases h
    exact State.reg_setReg_ne _ _ hk
  | drw => exact exec_drw_keeps_reg h (by simpa [mayWriteRegister] using hk)
  | ldVxK => exact exec_ldVxK_keeps_reg h (by simpa [mayWriteRegister] using hk)
  | ldRegs => exact exec_ldRegs_keeps_reg h (by simpa [mayWriteRegister] using hk)

end Registers

/-- Settles O18. -/
theorem registersChangeOnlyByTheirWriters : Obligations.RegistersChangeOnlyByTheirWriters := fun _ _ _ _ h hchange =>
  by_contra fun hk => hchange (exec_keeps_reg h hk)

/-! ### The inputs -/

section Inputs

variable (key : BitVec 16) (script : List Byte) (draws : Nat)

/-- The state with other contents of the key latch and the random source. -/
def State.withInputs (s : State) : State := { s with key := key, script := script, draws := draws }

/-- An answer with the next state, when it is one, changed. -/
def onNext (g : State → State) : Result → Result
  | .next t => .next (g t)
  | .fault f => .fault f
  | .refused r => .refused r

/-- The shape of the laws in Laws/Ops.lean: an answer is changed when both of its cases are. -/
theorem eq_onNext_of_ite {c : Prop} [Decidable c] {g : State → State} {t u : State} {r r' : Result}
    (hr : r = if c then .next t else .next u) (hr' : r' = if c then .next (g t) else .next (g u)) :
    r' = onNext g r :=
  hr'.trans ((apply_ite (onNext g) c _ _).symm.trans (congrArg _ hr.symm))

/-- Whether an instruction reads the key latch or the random source (40_step_cycle.md R128). -/
def readsInputs : Instr → Bool
  | .skp _ | .sknp _ | .ldVxK _ | .rnd _ _ => true
  | _ => false

theorem exec_withInputs {i : Instr} (h : readsInputs i = false) (s : State) :
    exec i (s.withInputs key script draws) = onNext (State.withInputs key script draws) (exec i s) := by
  cases i with
  | skp | sknp | ldVxK | rnd => cases h
  | ret =>
    by_cases hsp : s.sp.val = 0
    · rw [exec_ret_of_sp_eq_zero hsp, exec_ret_of_sp_eq_zero (s := s.withInputs key script draws) hsp]
      rfl
    · rw [exec_ret_of_sp_ne_zero hsp, exec_ret_of_sp_ne_zero (s := s.withInputs key script draws) hsp]
      rfl
  | call nnn =>
    by_cases hsp : s.sp.val = 16
    · rw [exec_call_of_sp_eq_bound nnn hsp, exec_call_of_sp_eq_bound (s := s.withInputs key script draws) nnn hsp]
      rfl
    · rw [exec_call_of_sp_ne_bound nnn hsp, exec_call_of_sp_ne_bound (s := s.withInputs key script draws) nnn hsp]
      rfl
  | ldF x => exact eq_onNext_of_ite (loadGlyph_fault_eq x s) (loadGlyph_fault_eq x _)
  | drw x y n => exact eq_onNext_of_ite (c := inBounds s.i.toNat n.toNat = true) rfl rfl
  | ldB x => exact eq_onNext_of_ite (storeAtIndex_eq (decimalDigits (s.reg x)) s) (storeAtIndex_eq _ _)
  | stRegs x => exact eq_onNext_of_ite (storeRegs_false_eq x s) (storeRegs_false_eq x _)
  | ldRegs x => exact eq_onNext_of_ite (loadRegs_false_eq x s) (loadRegs_false_eq x _)
  | cls | jp | jpV0 | seImm | sneImm | seReg | sneReg | ldImm | addImm | ldReg | orReg | andReg | xorReg | addReg
  | sub | shr | subn | shl | ldI | ldVxDt | ldDtVx | ldStVx | addI => rfl

end Inputs

/-- Settles O19: the inputs are carried through unread. -/
theorem inputsMatterOnlyToTheirReaders : Obligations.InputsMatterOnlyToTheirReaders := by
  intro i s t key script draws hreader h
  have hnot : readsInputs i = false := by
    refine Bool.eq_false_of_not_eq_true fun hreads => ?_
    unfold readsInputs at hreads
    split at hreads
    · exact (hreader _ 0).1 rfl
    · exact (hreader _ 0).2.1 rfl
    · exact (hreader _ 0).2.2.1 rfl
    · exact (hreader _ _).2.2.2 rfl
    · cases hreads
  exact (exec_withInputs key script draws hnot s).trans (congrArg _ h)

end Sys2Proof.Machine
end

section
/-! PROOF. The block invariant holds at reset and every operation of the block keeps it (10_state.md R23, R25). -/

namespace Sys2Proof.Safety

open Sys2Proof.Machine

section Kept

variable {s t : State}

theorem BlockInvariant.pc_le (h : BlockInvariant s) : s.pc.toNat ≤ 0x10FE := h.2.1

theorem BlockInvariant.slot_le (h : BlockInvariant s) (k : Fin 16) : s.stack[k].toNat ≤ 0x1000 := h.2.2.2 k

/-- What an operation that writes neither `i` nor the stack nor memory has to show. -/
theorem BlockInvariant.of_kept (h : BlockInvariant s) (hmem : t.mem = s.mem) (hi : t.i = s.i)
    (hstack : t.stack = s.stack) (hpc : t.pc.toNat ≤ 0x10FE) : BlockInvariant t := by
  obtain ⟨hwf, -, hindex, hslots⟩ := h
  exact ⟨hmem ▸ hwf, hpc, hi ▸ hindex, hstack ▸ hslots⟩

/-- Where `pc` is after an instruction that was fetched and goes on to the next (R25). -/
theorem toNat_pc_add_two (hfetch : s.pc.toNat + 1 < 4096) : (s.pc + 2).toNat ≤ 0x1000 := by
  bv_omega

theorem toNat_skipIf_pc (hfetch : s.pc.toNat + 1 < 4096) (c : Bool) : (s.skipIf c).pc.toNat ≤ 0x1002 := by
  cases c
  · exact (toNat_pc_add_two hfetch).trans (by decide)
  · rw [State.skipIf_pc, if_pos rfl]
    bv_omega

theorem BlockInvariant.of_advance (h : BlockInvariant s) (hfetch : s.pc.toNat + 1 < 4096) (hmem : t.mem = s.mem)
    (hi : t.i = s.i) (hstack : t.stack = s.stack) (hpc : t.pc = s.pc + 2) : BlockInvariant t :=
  h.of_kept hmem hi hstack (hpc ▸ (toNat_pc_add_two hfetch).trans (by decide))

theorem BlockInvariant.of_skip (h : BlockInvariant s) (hfetch : s.pc.toNat + 1 < 4096) (c : Bool) :
    BlockInvariant (s.skipIf c) :=
  h.of_kept rfl rfl rfl ((toNat_skipIf_pc hfetch c).trans (by decide))

theorem BlockInvariant.of_fault (h : BlockInvariant s) (f : Fault) : BlockInvariant { s with fault := some f } :=
  h.of_kept rfl rfl rfl h.pc_le

/-- An instruction that loads `i` and goes on (R23). -/
theorem BlockInvariant.of_index (h : BlockInvariant s) (hfetch : s.pc.toNat + 1 < 4096) (hmem : t.mem = s.mem)
    (hi : t.i.toNat ≤ 0x0FFF) (hstack : t.stack = s.stack) (hpc : t.pc = s.pc + 2) : BlockInvariant t := by
  obtain ⟨hwf, -, -, hslots⟩ := h
  exact ⟨hmem ▸ hwf, hpc ▸ (toNat_pc_add_two hfetch).trans (by decide), hi, hstack ▸ hslots⟩

/-- An instruction that stores bytes inside memory and goes on. -/
theorem BlockInvariant.of_store (h : BlockInvariant s) (hfetch : s.pc.toNat + 1 < 4096) (bs : List Byte)
    (hbs : s.i.toNat + bs.length ≤ 4096) :
    BlockInvariant { s with mem := s.mem.writeBytes s.i.toNat bs, pc := s.pc + 2 } := by
  obtain ⟨hwf, -, hkept⟩ := h
  exact ⟨Memory.wf_writeBytes hwf bs hbs, (toNat_pc_add_two hfetch).trans (by decide), hkept⟩

end Kept

/-- An answer whose next state meets the invariant. -/
def InvariantAfter (r : Result) : Prop := ∀ t, r = .next t → BlockInvariant t

section InvariantAfter

variable {s t : State} {r : Result}

theorem InvariantAfter.next (h : BlockInvariant t) : InvariantAfter (.next t) := by
  rintro _ ⟨⟩
  exact h

theorem InvariantAfter.of_eq (hr : r = .next t) (h : BlockInvariant t) : InvariantAfter r := hr ▸ .next h

/-- The shape of the laws in Laws/Ops.lean: all effects under the check, the latch alone without it. -/
theorem InvariantAfter.of_check {c : Prop} [Decidable c] {f : Fault} (h : BlockInvariant s)
    (hr : r = if c then .next t else .next { s with fault := some f }) (ht : c → BlockInvariant t) :
    InvariantAfter r := by
  by_cases hc : c
  · exact .of_eq (hr.trans (if_pos hc)) (ht hc)
  · exact .of_eq (hr.trans (if_neg hc)) (h.of_fault f)

/-- A return goes to a slot of the stack. -/
theorem invariantAfter_ret (h : BlockInvariant s) : InvariantAfter (exec .ret s) := by
  by_cases hsp : s.sp.val = 0
  · exact .of_eq (exec_ret_of_sp_eq_zero hsp) (h.of_fault _)
  · have hslot := h.slot_le ⟨s.sp.val - 1, by omega⟩
    exact .of_eq (exec_ret_of_sp_ne_zero hsp) (h.of_kept rfl rfl rfl (hslot.trans (by decide)))

/-- A call pushes the address after an instruction that was fetched. -/
theorem invariantAfter_call (h : BlockInvariant s) (hfetch : s.pc.toNat + 1 < 4096) (nnn : Addr) :
    InvariantAfter (exec (.call nnn) s) := by
  by_cases hsp : s.sp.val = 16
  · exact .of_eq (exec_call_of_sp_eq_bound nnn hsp) (h.of_fault _)
  · obtain ⟨hwf, -, hindex, hslots⟩ := h
    have htarget := nnn.isLt
    refine .of_eq (exec_call_of_sp_ne_bound nnn hsp) ⟨hwf, ?_, hindex, fun k => ?_⟩
    · rw [toNat_addrOperand]
      omega
    · simp only [Fin.getElem_fin, Vector.getElem_set]
      split
      · exact toNat_pc_add_two hfetch
      · exact hslots k

theorem invariantAfter_ldVxK (h : BlockInvariant s) (hfetch : s.pc.toNat + 1 < 4096) (x : RegIx) :
    InvariantAfter (exec (.ldVxK x) s) := by
  cases hk : s.pickedKey with
  | none => exact .of_eq (exec_ldVxK_of_none hk) h
  | some k => exact .of_eq (exec_ldVxK_of_some hk) (h.of_advance hfetch rfl rfl rfl rfl)

theorem invariantAfter_ldRegs (h : BlockInvariant s) (hfetch : s.pc.toNat + 1 < 4096) (x : RegIx) :
    InvariantAfter (exec (.ldRegs x) s) := by
  by_cases hin : s.i.toNat + x.toNat < 4096
  · refine .of_eq (exec_ldRegs_of_lt hin) (h.of_advance hfetch ?_ ?_ ?_ ?_) <;> simp
  · exact .of_eq (exec_ldRegs_of_le (Nat.not_lt.1 hin)) (h.of_fault _)

/-- The meaning of every instruction keeps the invariant at a `pc` from which it can be fetched. -/
theorem invariantAfter_exec (h : BlockInvariant s) (hfetch : s.pc.toNat + 1 < 4096) (i : Instr) :
    InvariantAfter (exec i s) := by
  cases i with
  | ret => exact invariantAfter_ret h
  | call nnn => exact invariantAfter_call h hfetch nnn
  | ldVxK x => exact invariantAfter_ldVxK h hfetch x
  | jp nnn =>
    have hle : (addrOperand nnn).toNat ≤ 0x10FE := by
      have := nnn.isLt
      rw [toNat_addrOperand]
      omega
    exact .next (h.of_kept rfl rfl rfl hle)
  | jpV0 nnn =>
    have hle : (addrOperand nnn + byteOperand (s.reg 0)).toNat ≤ 0x10FE := by
      have := nnn.isLt
      have := (s.reg 0).isLt
      rw [toNat_addrOperand_add_byteOperand]
      omega
    exact .next (h.of_kept rfl rfl rfl hle)
  | seImm | sneImm | seReg | sneReg => exact .next (h.of_skip hfetch _)
  | skp x => exact .of_check h (skipPressed_fault_eq x s) fun _ => h.of_skip hfetch _
  | sknp x => exact .of_check h (skipNotPressed_fault_eq x s) fun _ => h.of_skip hfetch _
  | cls | ldImm | addImm | ldReg | orReg | andReg | xorReg | addReg | sub | shr | subn | shl | rnd | ldVxDt | ldDtVx
  | ldStVx => exact .next (h.of_advance hfetch rfl rfl rfl rfl)
  | drw x y n => exact .of_check h rfl fun _ => h.of_advance hfetch rfl rfl rfl rfl
  | ldRegs x => exact invariantAfter_ldRegs h hfetch x
  | ldI nnn =>
    have hle : (addrOperand nnn).toNat ≤ 0x0FFF := by
      have := nnn.isLt
      rw [toNat_addrOperand]
      omega
    exact .next (h.of_index hfetch rfl hle rfl rfl)
  | addI x =>
    have hle : (indexSum .w12 s.i (s.reg x)).toNat ≤ 0x0FFF := by
      rw [toNat_indexSum_w12]
      omega
    exact .next (h.of_index hfetch rfl hle rfl rfl)
  | ldF x =>
    have hle : (BitVec.ofNat 16 (5 * (s.reg x).toNat)).toNat ≤ 0x0FFF := by
      have := (s.reg x).isLt
      rw [toNat_ofNat_mul_five this]
      omega
    exact .of_check h (loadGlyph_fault_eq x s) fun _ => h.of_index hfetch rfl hle rfl rfl
  | ldB x =>
    exact .of_check h (storeAtIndex_eq (decimalDigits (s.reg x)) s) fun hin =>
      h.of_store hfetch _ (hin.resolve_left (by simp [decimalDigits]))
  | stRegs x =>
    refine .of_check h (storeRegs_false_eq x s) fun hin => h.of_store hfetch _ ?_
    rw [State.length_regsUpTo]
    omega

end InvariantAfter

/-- Settles O15: a stutter and a raise keep all that the invariant is about, and an instruction was fetched. -/
theorem stepKeepsTheInvariant : Obligations.StepKeepsTheInvariant := by
  intro s t h hstep
  obtain ⟨-, hs⟩ | ⟨-, -, hs⟩ | ⟨op, -, -, -, hs⟩ | ⟨op, i, -, hfetch, -, hs⟩ := step_cases s
  · cases hstep.symm.trans hs
    exact h
  · cases hstep.symm.trans hs
    exact h.of_fault _
  · cases hstep.symm.trans hs
    exact h.of_fault _
  · exact invariantAfter_exec h ((fetch_eq_some_iff s op).1 hfetch).1 i t (hs.symm.trans hstep)

/-! ### Reset and the host's operations -/

theorem blockInvariant_reset : BlockInvariant State.reset :=
  ⟨Memory.wf_nil, by decide, by decide, by decide⟩

theorem blockInvariant_resetImage (s : State) (image : List Byte) : BlockInvariant (s.resetImage image) :=
  ⟨State.wf_resetWith .., blockInvariant_reset.2⟩

/-- Settles O14. -/
theorem invariantHoldsAtReset : Obligations.InvariantHoldsAtReset :=
  ⟨blockInvariant_reset, blockInvariant_resetImage⟩

/-- Settles O16: a reset establishes the invariant, and the other operations write nothing that it is about. -/
theorem hostOperationsKeepTheInvariant : Obligations.HostOperationsKeepTheInvariant := by
  intro o s t ho h happly
  cases o with
  | step => exact absurd rfl ho
  | tickTimers | writeKeys | drawAck | supplyRandom =>
    cases happly
    exact h.of_kept rfl rfl rfl h.pc_le
  | reset image =>
    cases happly
    exact blockInvariant_resetImage s image

end Sys2Proof.Safety
end

section
/-! PROOF. The phases of a step, a placed word, and a step under any policies (40_step_cycle.md R120 to R130,
30_encoding.md R98). -/

namespace Sys2Proof.Machine

open Sys2Proof.Safety

/-! ### The phases of a step -/

section Phases

variable {p : UnknownPolicy} {run : Instr → State → Result} {s : State} {op : Word} {i : Instr}

theorem stepWith_of_latched {f : Fault} (hs : s.fault = some f) : stepWith p run s = .next s := by
  simp only [stepWith, hs]

theorem stepWith_of_unknown (hready : ReadyToExecute s op) (hdecode : decodeWord op = none) :
    stepWith p run s = unknownOpcode p op s := by
  simp only [stepWith, hready.1, fetch_of_ready hready, hdecode]

theorem stepWith_of_decoded (hready : ReadyToExecute s (encode i)) : stepWith p run s = run i s := by
  simp only [stepWith, hready.1, fetch_of_ready hready, decodeWord_encode]

end Phases

/-- Settles O10. -/
theorem latchedStepChangesNothing : Obligations.LatchedStepChangesNothing := fun _ _ hs => stepWith_of_latched hs

/-- Settles O9: the word the two bytes join to is the instruction's encoding. -/
theorem stepRunsTheDecodedInstruction : Obligations.StepRunsTheDecodedInstruction := by
  intro s i hs hpc hdecode _
  have hword := encode_of_decodeWord (decode_cons_cons_eq_ok_iff.1 hdecode)
  exact stepWith_of_decoded ⟨hs, hpc, hword ▸ toNat_wordOfBytes ..⟩

/-- Settles O29: the jump writes the `pc` that is there. -/
theorem endedProgramStaysPut : Obligations.EndedProgramStaysPut := by
  rintro s ⟨nnn, hready, hpc⟩
  have htarget : addrOperand nnn = s.pc := BitVec.eq_of_toNat_eq ((toNat_addrOperand nnn).trans hpc)
  calc step s
    _ = exec (.jp nnn) s := stepWith_of_decoded hready
    _ = .next { s with pc := addrOperand nnn } := rfl
    _ = .next s := by rw [htarget]

/-! ### A placed word -/

section Placing

variable (s : State)

/-- Both bytes exist at the place. -/
theorem fetchSite_lt : (fetchSite s).toNat + 1 < 4096 := by
  unfold fetchSite
  split
  case isTrue h =>
    have := (inBounds_iff _ _).1 h
    omega
  case isFalse => decide

theorem fetchSite_of_lt {s : State} (h : s.pc.toNat + 1 < 4096) : fetchSite s = s.pc :=
  if_pos ((inBounds_iff _ _).2 (.inr h))

theorem withFetchWord_encode (i : Instr) : s.withFetchWord 16 (encode i).toNat = placeWord s (encode i) := by
  rw [State.withFetchWord, Nat.mod_eq_of_lt (encode i).isLt, BitVec.ofNat_toNat, BitVec.setWidth_eq]

/-- The placed word is the one fetched. -/
theorem readyToExecute_placeWord (op : Word) : ReadyToExecute (placeWord s op) op := by
  have hread (k : Nat) (hk : k < 2) :
      (placeWord s op).mem.read ((fetchSite s).toNat + k) = [hiByte op, loByte op][k] :=
    Memory.read_writeBytes_add s.mem _ hk
  refine ⟨rfl, fetchSite_lt s, ?_⟩
  have hhi : (placeWord s op).mem.read (placeWord s op).pc.toNat = hiByte op := hread 0 (by decide)
  have hlo : (placeWord s op).mem.read ((placeWord s op).pc.toNat + 1) = loByte op := hread 1 (by decide)
  rw [hhi, hlo, toNat_hiByte, toNat_loByte]
  omega

theorem read_placeWord_outside (op : Word) {a : Nat} (h : a ≠ (fetchSite s).toNat)
    (h' : a ≠ (fetchSite s).toNat + 1) : (placeWord s op).mem.read a = s.mem.read a :=
  Memory.read_writeBytes_outside s.mem _ (by simp only [List.length_cons, List.length_nil]; omega)

theorem changesOnly_placeWord (op : Word) : ChangesOnly [.pc, .memory, .faultLatch] s (placeWord s op) := by
  simp [changesOnly_iff, placeWord, State.reg]

end Placing

/-- Settles O28: the placed word is fetched and decodes to its instruction. -/
theorem placedWordRunsNext : Obligations.PlacedWordRunsNext := by
  intro s i
  rw [withFetchWord_encode]
  exact ⟨stepWith_of_decoded (readyToExecute_placeWord s _), fetchSite_of_lt,
    fun _ => read_placeWord_outside s _, changesOnly_placeWord s _⟩

/-! ### A step under any policies, and its report -/

section Reports

variable {p : UnknownPolicy} {s t : State}

theorem stepReport_of_fault {f : Fault} (h : t.fault = some f) : stepReport p s t = .fatal f := by
  simp only [stepReport, h]

theorem stepReport_of_skipped {op : Word} (h : t.fault = none) (hskip : s.skippedOpcode p = some op) :
    stepReport p s t = .skipped op := by
  simp only [stepReport, h, hskip]

theorem stepReport_of_completed (h : t.fault = none) (hskip : s.skippedOpcode p = none) :
    stepReport p s t = .completed := by
  simp only [stepReport, h, hskip]

/-- An opcode that decodes is never skipped. -/
theorem skippedOpcode_of_decoded {i : Instr} (hready : ReadyToExecute s (encode i)) : s.skippedOpcode p = none := by
  refine Option.eq_none_iff_forall_ne_some.2 fun op hop => ?_
  obtain ⟨-, hfetch, hdecode⟩ := (skippedOpcode_eq_some_iff p s op).1 hop
  cases (fetch_of_ready hready).symm.trans hfetch
  simp at hdecode

theorem execUnder_of_independent {c : Config} {i : Instr}
    (h : ∀ x, i ≠ .addI x ∧ i ≠ .ldF x ∧ i ≠ .skp x ∧ i ≠ .sknp x ∧ i ≠ .stRegs x ∧ i ≠ .ldRegs x) (s : State) :
    execUnder c i s = exec i s := by
  unfold execUnder
  split
  · exact absurd rfl (h _).1
  · exact absurd rfl (h _).2.1
  · exact absurd rfl (h _).2.2.1
  · exact absurd rfl (h _).2.2.2.1
  · exact absurd rfl (h _).2.2.2.2.1
  · exact absurd rfl (h _).2.2.2.2.2
  all_goals rfl

theorem stepUnder_policy (s : State) : stepUnder policy s = step s :=
  congrArg (fun run => stepWith policy.unknown run s) (funext₂ execUnder_policy)

theorem applyUnder_policy (o : HostOp) (s : State) : HostOp.applyUnder policy o s = HostOp.apply o s := by
  cases o with
  | step => exact stepUnder_policy s
  | tickTimers | writeKeys | drawAck | supplyRandom | reset => rfl

end Reports

/-- Settles O60, clause by clause: an unknown opcode, a loaded latch, a decoded instruction; then what depends on a
policy, and this machine's own. -/
theorem stepUnderAPolicyReportsToTheHost : Obligations.StepUnderAPolicyReportsToTheHost := by
  refine ⟨fun c s op hready hdecode => ⟨fun hskip => ?_, fun hfatal => ?_⟩,
    fun c s f hs => ⟨stepWith_of_latched hs, stepReport_of_fault hs⟩, fun c s t i hready hexec => ⟨?_, ?_, ?_⟩,
    fun c i s h => execUnder_of_independent h s, fun c x s => ⟨rfl, rfl, rfl, rfl, rfl, rfl⟩,
    fun i s => ⟨execUnder_policy i s, stepUnder_policy s⟩, applyUnder_policy⟩
  · refine ⟨s.advance, (stepWith_of_unknown hready hdecode).trans (by rw [hskip]; rfl), rfl, changesOnly_pc s _, ?_⟩
    exact stepReport_of_skipped hready.1 ((skippedOpcode_eq_some_iff _ s op).2 ⟨hskip, fetch_of_ready hready, hdecode⟩)
  · exact ⟨_, (stepWith_of_unknown hready hdecode).trans (by rw [hfatal]; rfl), rfl, stepReport_of_fault rfl⟩
  · exact (stepWith_of_decoded hready).trans hexec
  · exact fun f => stepReport_of_fault
  · exact fun h => stepReport_of_completed h (skippedOpcode_of_decoded hready)

end Sys2Proof.Machine
end

section
/-! PROOF. Memory as data, the reset operation, the timers and what the host reads and writes (10_state.md R38 to R44,
60_exceptions.md R250, R264 to R270, 70_reset_and_hazards.md R290 to R297). -/

namespace Sys2Proof.Machine

open Sys2Proof.Safety

/-! ### Memory as data -/

/-- In canonical form the cells listed are those that read otherwise than an unlisted address. -/
theorem Memory.mem_iff {m : Memory} (h : m.wf) {c : Host.Cell} :
    c ∈ m ↔ m.read c.1 = c.2 ∧ c.2 ≠ unlisted c.1 := by
  induction m with
  | nil =>
    simp only [List.not_mem_nil, Memory.read_nil, false_iff]
    rintro ⟨heq, hne⟩
    exact hne heq.symm
  | cons d m ih =>
    obtain ⟨hsorted, hcells⟩ := h
    obtain ⟨hbelow, hsorted'⟩ := List.pairwise_cons.1 hsorted
    have ih := ih ⟨hsorted', fun e he => hcells e (List.mem_cons_of_mem d he)⟩
    have hd := (hcells d List.mem_cons_self).2
    rw [List.mem_cons, Memory.read]
    by_cases hdc : d.1 = c.1
    · have hnot : c ∉ m := fun hc => absurd (hbelow c hc) (by omega)
      rw [if_pos hdc, or_iff_left hnot]
      constructor
      · rintro rfl
        exact ⟨rfl, hd⟩
      · rintro ⟨heq, -⟩
        exact Prod.ext hdc.symm heq.symm
    · have hne : c ≠ d := fun h => hdc (congrArg Prod.fst h.symm)
      rw [if_neg hdc, or_iff_right hne, ih]

/-- Settles O27: by what they read the two list the same cells, and both list them in rising order. -/
theorem canonicalMemoriesAreEqualData : Obligations.CanonicalMemoriesAreEqualData := by
  intro m m' h h' hread
  have : Std.Irrefl fun c d : Host.Cell => c.1 < d.1 := ⟨fun c => Nat.lt_irrefl c.1⟩
  have : Std.Antisymm fun c d : Host.Cell => c.1 < d.1 := ⟨fun _ _ hcd hdc => absurd hdc hcd.asymm⟩
  refine h.1.eq_of_mem_iff h'.1 fun c => ?_
  rw [Memory.mem_iff h, Memory.mem_iff h', hread]

/-! ### Reset -/

section Reset

variable {s : State} {image : List Byte}

theorem getD_of_lt {l : List Byte} {k : Nat} (h : k < l.length) (d d' : Byte) : l.getD k d = l.getD k d' := by
  rw [List.getD_eq_getElem _ _ h, List.getD_eq_getElem _ _ h]

/-- The reset contents of memory, with the ranges of R40 written out. -/
theorem resetByte_eq {fontBytes : List Byte} (hfont : fontBytes.length = 80) (fill : Nat → Byte) (a : Nat) :
    resetByte fontBytes fill image a =
      if a < 0x50 then fontBytes.getD a 0
      else if 0x200 ≤ a ∧ a < 0x200 + image.length then image.getD (a - 0x200) 0
      else fill a := by
  have hbase : progBase.toNat = 0x200 := rfl
  rw [resetByte, hbase]
  by_cases hlow : a < 0x50
  · rw [if_pos (by omega), if_pos hlow]
    exact getD_of_lt (by omega) _ _
  rw [if_neg hlow]
  by_cases hgap : a < 0x200
  · rw [if_pos hgap, if_neg (by omega)]
    exact List.getD_eq_default _ _ (by omega)
  rw [if_neg hgap]
  by_cases himage : a < 0x200 + image.length
  · rw [if_pos ⟨by omega, himage⟩]
    exact getD_of_lt (by omega) _ _
  · rw [if_neg fun h => himage h.2]
    exact List.getD_eq_default _ _ (by omega)

theorem imageWellFormed_eq_false (h : 3584 < image.length) : imageWellFormed image = false :=
  Bool.eq_false_iff.2 fun hwf => absurd ((imageWellFormed_iff image).1 hwf) (Nat.not_le.2 h)

theorem resetWith_fault_of_le (s : State) (fontBytes : List Byte) (fill : Nat → Byte) (h : image.length ≤ 3584) :
    (s.resetWith fontBytes fill image).fault = none := by
  rw [State.resetWith_fault, if_pos ((imageWellFormed_iff image).2 h)]

theorem resetWith_fault_of_lt (s : State) (fontBytes : List Byte) (fill : Nat → Byte) (h : 3584 < image.length) :
    (s.resetWith fontBytes fill image).fault = some .programTooLarge := by
  rw [State.resetWith_fault, imageWellFormed_eq_false h]
  rfl

end Reset

/-- Settles O21. -/
theorem resetMemoryIsFontImageAndFill : Obligations.ResetMemoryIsFontImageAndFill := by
  intro s fontBytes fill image hfont himage a ha
  rw [State.read_resetWith _ _ _ _ ha, (imageWellFormed_iff image).2 himage, if_pos rfl]
  exact resetByte_eq hfont fill a

/-- Settles O22: memory is that of the empty image, and a loaded latch makes the step a stutter. -/
theorem oversizedImageIsRefused : Obligations.OversizedImageIsRefused := by
  intro s image himage
  have hfault := resetWith_fault_of_lt s font (fun _ => memFill) himage
  refine ⟨hfault, fun a ha => ?_, latchedStepChangesNothing _ _ hfault⟩
  rw [State.resetImage, State.read_resetWith _ _ _ _ ha, imageWellFormed_eq_false himage]
  exact resetByte_nil

theorem getElem?_reset_stack {k : Nat} (h : k < 16) : State.reset.stack[k]? = some 0 := by
  simp [State.reset, h]

theorem pixel_reset_fb (x y : Nat) : pixel State.reset.fb x y = false := pixel_blankScreen x y

/-- Settles O58: the reset operation leaves these elements as `State.reset` has them, and the inputs as they were. -/
theorem resetClearsScreenTimersAndLatch : Obligations.ResetClearsScreenTimersAndLatch := by
  refine ⟨⟨fun _ => getElem?_reset_stack, pixel_reset_fb, rfl, rfl, rfl, rfl⟩, fun s fontBytes fill image => ?_⟩
  exact ⟨_, rfl, fun _ => getElem?_reset_stack, pixel_reset_fb, rfl, rfl, rfl, State.reset_reg, rfl, rfl, rfl,
    resetWith_fault_of_le s fontBytes fill, resetWith_fault_of_lt s fontBytes fill, rfl, rfl, rfl⟩

/-! ### Timers -/

theorem toNat_tick_eq_sub (t : Byte) : (tick t).toNat = t.toNat - 1 := by
  rw [toNat_tick]
  split <;> omega

/-- Settles O24, by induction on the number of ticks. -/
theorem ticksCountDownToZero : Obligations.TicksCountDownToZero := by
  intro n s
  induction n with
  | zero => exact ⟨rfl, rfl⟩
  | succ n ih =>
    obtain ⟨hdt, hst⟩ := ih
    rw [Function.iterate_succ_apply', State.tickTimers_dt, State.tickTimers_st, toNat_tick_eq_sub, toNat_tick_eq_sub,
      hdt, hst]
    exact ⟨Nat.sub_sub .., Nat.sub_sub ..⟩

/-- A step that changes the delay timer fetched FX15. -/
theorem fetch_of_step_dt {s t : State} (h : step s = .next t) (hdt : t.dt ≠ s.dt) :
    ∃ x, fetch s = some (encode (.ldDtVx x)) := by
  obtain ⟨-, hs⟩ | ⟨-, -, hs⟩ | ⟨op, -, -, -, hs⟩ | ⟨op, i, -, hfetch, hdecode, hs⟩ := step_cases s
  · cases h.symm.trans hs
    exact absurd rfl hdt
  · cases h.symm.trans hs
    exact absurd rfl hdt
  · cases h.symm.trans hs
    exact absurd rfl hdt
  · obtain ⟨x, rfl⟩ := delayTimer_mem_writtenParts (mem_writtenParts_of_change (hs.symm.trans h) nofun hdt)
    exact ⟨x, by rw [hfetch, encode_of_decodeWord hdecode]⟩

/-- Settles O25: a tick takes from the timer, a reset clears it, and the other host operations leave it. -/
theorem delayTimerRisesOnlyByFX15 : Obligations.DelayTimerRisesOnlyByFX15 := by
  intro o s t happly hrise
  cases o with
  | step => exact ⟨rfl, fetch_of_step_dt happly fun h => absurd hrise (h ▸ Nat.lt_irrefl _)⟩
  | tickTimers =>
    cases happly
    rw [State.tickTimers_dt, toNat_tick_eq_sub] at hrise
    omega
  | writeKeys | drawAck | supplyRandom =>
    cases happly
    exact absurd hrise (Nat.lt_irrefl _)
  | reset =>
    cases happly
    exact absurd hrise (Nat.not_lt_zero _)

/-! ### What the host reads and writes -/

/-- Settles O26. -/
theorem hostWritesTouchOneElement : Obligations.HostWritesTouchOneElement := fun s key bytes =>
  ⟨⟨State.writeKeys_key s key, by simp [changesOnly_iff]⟩, ⟨State.drawAck_drawFlag s, by simp [changesOnly_iff]⟩,
    ⟨State.supplyRandom_script s bytes, State.supplyRandom_draws s bytes, by simp [changesOnly_iff]⟩,
    rfl, rfl, rfl, rfl, rfl⟩

theorem faultCode_of_some {s : State} {f : Fault} (h : s.fault = some f) : s.faultCode = f.code := by
  rw [State.faultCode, h]
  rfl

theorem faultInfo_of_some {s : State} {f : Fault} (h : s.fault = some f) : s.faultInfo = f.info := by
  rw [State.faultInfo, h]
  rfl

/-- No kind has the code of the empty latch. -/
theorem faultCode_eq_zero_iff (s : State) : s.faultCode = 0 ↔ s.fault = none := by
  cases hf : s.fault with
  | none => simp [State.faultCode, hf]
  | some f => rw [faultCode_of_some hf]; cases f <;> simp [Fault.code]

/-- Settles O59. -/
theorem faultLatchHasTheSpecsNumbers : Obligations.FaultLatchHasTheSpecsNumbers := fun s =>
  ⟨faultCode_eq_zero_iff s, fun h => by rw [State.faultInfo, h]; rfl,
    fun _ h => ⟨faultCode_of_some h, faultInfo_of_some h⟩, fun h => ⟨faultCode_of_some h, faultInfo_of_some h⟩,
    fun h => ⟨faultCode_of_some h, faultInfo_of_some h⟩, fun h => ⟨faultCode_of_some h, faultInfo_of_some h⟩,
    fun _ h => ⟨faultCode_of_some h, faultInfo_of_some h⟩, fun h => ⟨faultCode_of_some h, faultInfo_of_some h⟩⟩

end Sys2Proof.Machine
end
